-- ==== Sys2Proof/Word.lean ====
section
/-! DEFINITION. The word type of the engine's registers, and one transaction of the host port (30_encoding.md R71).

A register or data word has W bits (W is 32 or 64, 00_scope.md R2). Both widths are held in one 64-bit word type: with
W = 32 the upper half of a stored word is zero (log 1; Safety.lean states it as an invariant). -/

namespace Sys2Proof

/-- A W-bit word of the host port, of a W-bit register or of the round-function port, held in 64 bits (log 1). -/
abbrev Word := BitVec 64

/-- One BUS transaction (30_encoding.md R71): an 8-bit header and, when the header's WR bit is set, the W-bit data word.
A read carries no data word; the field `data` of a read is not looked at (log 8). There are no byte lanes and no byte
order (20_memory.md R51), so a transaction is a header and a word, not a list of bytes. -/
structure BusTxn where
  header : BitVec 8
  data : Word
  deriving DecidableEq, Repr

end Sys2Proof
end

