-- ==== Sys2Proof/Config.lean ====
section
/-! DEFINITION. What an implementation of the engine fixes: the width parameter W (00_scope.md R2, R6).

The round function is not fixed here: each of its responses is an input of the step (`Machine.Event.response`), so every
statement holds for every round function, pure or not (00_scope.md R6, 93 section 1). The input `rf_present` is a level
that the platform may change; it stands in State. -/

namespace Sys2Proof

/-- The width parameter W: "The parameter `W` (the datapath width in bits) takes the value 32 or 64" (00_scope.md R2). -/
inductive Width where
  | w32
  | w64
  deriving DecidableEq, Repr

/-- W as a number of bits. -/
def Width.bits : Width → Nat
  | .w32 => 32
  | .w64 => 64

/-- IFVER, the version of the command interface that the spec defines (10_state.md R22). -/
def interfaceVersion : Nat := 1

end Sys2Proof
end

