-- ==== Sys2Proof/Machine/Bits.lean ====
section
/-! DEFINITION. Bit fields, masks, widths and signs, as 00_scope.md R7 to R10 define them: exact arithmetic on
mathematical integers, with every width stated where a value is stored. -/

namespace Sys2Proof

/-- OP of a command word: bits [7:0] (30_encoding.md R72). -/
def opOf (data : Word) : BitVec 8 := data.extractLsb' 0 8

/-- The index of CMD (10_state.md R21). -/
def cmdIndex : BitVec 4 := 0x1#4

end Sys2Proof

namespace Sys2Proof.Machine

/-- `v[W-1:0]`, the W bits that a word of the port or of a register has (00_scope.md R7, 20_memory.md R53). -/
def truncTo (w : Width) (v : Word) : Word :=
  match w with
  | .w32 => (v.setWidth 32).setWidth 64
  | .w64 => v

/-- A word has W bits: nothing stands above bit W-1. -/
def fitsIn (w : Width) (v : Word) : Bool := decide (v.toNat < 2 ^ w.bits)

/-- `zext_W`: a non-negative integer as a W-bit word (00_scope.md R7, R8: the width is stated where a value is stored). -/
def zextTo (w : Width) (n : Nat) : Word := truncTo w (BitVec.ofNat 64 n)

/-- `sint_W`: the low W bits read as two's complement (00_scope.md R7). -/
def sintW (w : Width) (v : Word) : Int :=
  match w with
  | .w32 => (v.setWidth 32).toInt
  | .w64 => v.toInt

/-- `mask(n) = 2^n - 1`, exact for every n (00_scope.md R10): no shift count is reduced modulo a width. -/
def mask (n : Nat) : Nat := 2 ^ n - 1

/-- `lowbits(F, p) = F mod 2^p`, the low p bits of F's two's-complement pattern (43_bit_domain.md, above R180). -/
def lowbits (F : Int) (p : Nat) : Nat := (F % (2 ^ p : Nat)).toNat

/-- `x mod m`, the floor remainder of 00_scope.md R9. The spec never applies it with m = 0 (44_numeric.md R216); there it
is given Lean's value (log 12). -/
def floorMod (x : Int) (m : Nat) : Nat := (x % (m : Int)).toNat

/-- `MAXS = 2^(W-1) - 1`, the largest radix domain size (41_range_check_configure.md R126). -/
def maxs (w : Width) : Nat := 2 ^ (w.bits - 1) - 1

end Sys2Proof.Machine
end

