-- ==== Sys2Proof/Syntax.lean ====
section
/-! DEFINITION. The instructions: one constructor for each row of spec/opcode_table.json, with every bit of its encoding
that the row leaves open as an operand. -/

namespace Sys2Proof

/-- What the host can ask of the engine (60_exceptions.md R278: "make up the whole command set").

`rsv` is the reserved field [6:4] of the header: not 0, the transaction is ignored and a read returns 0 (30_encoding.md
R76), which is a defined effect and not a refusal (log 19). `upper` is the ignored part [W-1:8] of a command word
(30_encoding.md R72), kept so that no bit of an encoding is dropped (log 9). -/
inductive Instr where
  /-- REG_READ (40_host_access.md R100): read of one register. -/
  | regRead (rsv : BitVec 3) (index : BitVec 4)
  /-- REG_WRITE (40_host_access.md R101): write of one register with a W-bit data word. A write to CMD whose OP names no
  command stays a REG_WRITE: it presents an illegal command (R103). -/
  | regWrite (rsv : BitVec 3) (index : BitVec 4) (data : Word)
  /-- CONFIGURE (41_range_check_configure.md R130): the command word with OP 0x01, written to CMD. -/
  | configure (upper : BitVec 56)
  /-- APPLY (42_round_function_apply.md R160): the command word with OP 0x02, written to CMD. -/
  | apply (upper : BitVec 56)
  /-- INVERT (45_width_reversal.md R240): the command word with OP 0x03, written to CMD. -/
  | invert (upper : BitVec 56)
  deriving DecidableEq, Repr

end Sys2Proof
end

