-- ==== Sys2Proof/WellFormed.lean ====
section
/-! DEFINITION. The instructions that have an encoding of their own on an engine of width W. -/

namespace Sys2Proof

/-- The data word of a write to CMD with RSV = 0 names one of the three commands (30_encoding.md R73). Such a transaction
is the command's own encoding, so the instruction that stands for it is the command (log 9). -/
def isCommandWrite (rsv : BitVec 3) (index : BitVec 4) (data : Word) : Bool :=
  decide (rsv = 0#3) && decide (index = cmdIndex) &&
    (decide (opOf data = 0x01#8) || decide (opOf data = 0x02#8) || decide (opOf data = 0x03#8))

/-- The ignored part of a command word has W-8 bits (30_encoding.md R72). -/
def upperFits (w : Width) (upper : BitVec 56) : Bool := decide (upper.toNat < 2 ^ (w.bits - 8))

/-- An instruction is well formed on an engine of width W when its data word or ignored part fits the W-bit port
(30_encoding.md R71, R72) and, for a REG_WRITE, when it is not another spelling of a command (log 9). -/
def Instr.wellFormed (w : Width) : Instr → Bool
  | .regRead _ _ => true
  | .regWrite rsv index data => Machine.fitsIn w data && !isCommandWrite rsv index data
  | .configure upper => upperFits w upper
  | .apply upper => upperFits w upper
  | .invert upper => upperFits w upper

end Sys2Proof
end

