-- ==== Sys2Proof/Decode.lean ====
section
/-! DEFINITION. The decoder and the encoder of the two formats of 30_encoding.md: BUS (R71) and CMD (R72, R73).

The decoder is total: every header and every command word has a defined effect (30_encoding.md R76; 93 section 3: "None is a
refusal and none is a fault"), so it rejects nothing. Only `decodeTableWord`, the host's reading of the opcode table's
numbers, has bit counts that no format has, and answers none there. -/

namespace Sys2Proof

/-- The command that a CMD word names, by its OP field alone (30_encoding.md R72, R73); none for an illegal OP (R76). -/
def decodeCmd (data : Word) : Option Instr :=
  if opOf data = 0x01#8 then some (.configure (data.extractLsb' 8 56))
  else if opOf data = 0x02#8 then some (.apply (data.extractLsb' 8 56))
  else if opOf data = 0x03#8 then some (.invert (data.extractLsb' 8 56))
  else none

/-- RSV of a header: bits [6:4] (30_encoding.md R71). -/
def headerRsv (header : BitVec 8) : BitVec 3 := header.extractLsb' 4 3

/-- INDEX of a header: bits [3:0] (30_encoding.md R71). -/
def headerIndex (header : BitVec 8) : BitVec 4 := header.extractLsb' 0 4

/-- WR of a header: bit [7], which alone tells the transaction's length (30_encoding.md R71, R77). -/
def headerWr (header : BitVec 8) : Bool := header.getLsbD 7

/-- The instruction of one BUS transaction on an engine of width W: a read, a command (a write to CMD with RSV = 0 whose
word names one), or a write (30_encoding.md R70 to R73). The port carries W bits of data (20_memory.md R53). -/
def decode (w : Width) (t : BusTxn) : Instr :=
  let rsv := headerRsv t.header
  let index := headerIndex t.header
  let data := Machine.truncTo w t.data
  if headerWr t.header = false then .regRead rsv index
  else if rsv = 0#3 ∧ index = cmdIndex then (decodeCmd data).getD (.regWrite rsv index data)
  else .regWrite rsv index data

/-- A header from its fields WR, RSV and INDEX (30_encoding.md R71). -/
def mkHeader (wr : BitVec 1) (rsv : BitVec 3) (index : BitVec 4) : BitVec 8 := wr ++ rsv ++ index

/-- The header of a write to CMD, 0x81 (30_encoding.md R80). -/
def cmdHeader : BitVec 8 := mkHeader 1#1 0#3 cmdIndex

/-- A command word from its ignored part and its OP (30_encoding.md R72). -/
def cmdWord (upper : BitVec 56) (op : BitVec 8) : Word := upper ++ op

/-- The transaction that carries an instruction (30_encoding.md R71 to R73). -/
def encode : Instr → BusTxn
  | .regRead rsv index => { header := mkHeader 0#1 rsv index, data := 0#64 }
  | .regWrite rsv index data => { header := mkHeader 1#1 rsv index, data := data }
  | .configure upper => { header := cmdHeader, data := cmdWord upper 0x01#8 }
  | .apply upper => { header := cmdHeader, data := cmdWord upper 0x02#8 }
  | .invert upper => { header := cmdHeader, data := cmdWord upper 0x03#8 }

/-- The transaction that a row of spec/opcode_table.json stands for, from its bits. The table's rows have 8 bits: a CMD row
is the low byte of a command word (its carrier is a write to CMD), a BUS row is a header, its data word all zeros. The
numbers 1, 2 and 3 fit a row of each format; they are read as the CMD rows, whose every bit is fixed (log 10). A longer
number is a whole write: the header in bits [7:0], the W-bit data word above it. -/
def tableTxn (nbits n : Nat) : Option BusTxn :=
  if nbits = 8 then
    if n = 1 ∨ n = 2 ∨ n = 3 then some { header := cmdHeader, data := BitVec.ofNat 64 n }
    else some { header := BitVec.ofNat 8 n, data := 0#64 }
  else if nbits = 40 ∨ nbits = 72 then
    some { header := BitVec.ofNat 8 n, data := BitVec.ofNat 64 (n % 2 ^ nbits / 2 ^ 8) }
  else none

/-- The instruction that the decoder reads from the bits of an opcode-table row, on an engine of width 64. -/
def decodeTableWord (nbits w : Nat) : Option Instr := (tableTxn nbits w).map (decode .w64)

end Sys2Proof
end

