-- ==== Sys2Proof/Machine/State.lean ====
section
/-! DEFINITION. The state of the machine, as plain data: every piece of state of 10_state.md R21 to R36, the engine's
parameters and inputs (R43), and the agents' next steps. -/

namespace Sys2Proof.Machine

/-- The construction kinds (30_encoding.md R75). A reserved KIND never reaches the active descriptor (R30, R131; log 13). -/
inductive Kind where
  | balanced
  | unbalanced
  | fe1
  | fe2
  deriving DecidableEq, Repr

/-- `ENG.PHASE` (10_state.md R33). -/
inductive Phase where
  | idle
  | run
  | wait
  deriving DecidableEq, Repr

/-- The active descriptor `ACT` (10_state.md R30), one permutation object. `dir` is `ACT.DIR`: false forward, true
reversed (R32). -/
structure Descriptor where
  valid : Bool
  kind : Kind
  rfsel : Bool
  rounds : BitVec 32
  totalBits : BitVec 32
  sourceBits : BitVec 32
  targetBits : BitVec 32
  radixA : Word
  radixB : Word
  dir : Bool
  deriving DecidableEq, Repr

/-- The engine's sequencing state `ENG` (10_state.md R33 to R36). -/
structure Engine where
  phase : Phase
  j : BitVec 32
  i : BitVec 32
  ws : Word
  l : Word
  r : Word
  reqValid : Bool
  reqRound : BitVec 32
  reqValue : Word
  deriving DecidableEq, Repr

/-- One step of one agent (10_state.md R20). -/
inductive Event where
  /-- The host performs one BUS transaction (R20, 30_encoding.md R71). -/
  | host (t : BusTxn)
  /-- The engine takes its next step, if phase RUN enables one (42_round_function_apply.md R162). -/
  | engine
  /-- The round-function agent offers the response word `data` (42_round_function_apply.md R152, R163). -/
  | response (data : Word)
  /-- The platform drives the input `rf_present` (42_round_function_apply.md R151). -/
  | rfPresent (level : Bool)
  /-- Reset (70_reset_and_hazards.md R290). -/
  | reset
  deriving DecidableEq, Repr

/-- The state. The first group are the parameter W and the input `rf_present` (10_state.md R43; logs 1 and 2), then the
host-visible registers (R21 to R29), then ACT and ENG; the last two are the model's own: the word that the last host read
returned (log 6) and the agents' next steps, oldest first (log 3). CAP, CMD, STATUS.BUSY and the STATUS copies of ACT are
not stored: they are computed where they are read (R22, R23, R24; log 14). -/
structure State where
  width : Width
  rfPresent : Bool
  done : Bool
  err : Bool
  ovr : Bool
  errCode : BitVec 4
  cfgKind : BitVec 3
  cfgRfsel : Bool
  rounds : BitVec 32
  totalBits : BitVec 32
  sourceBits : BitVec 32
  targetBits : BitVec 32
  radixA : Word
  radixB : Word
  x : Word
  y : Word
  act : Descriptor
  eng : Engine
  readData : Word
  agenda : List Event
  deriving DecidableEq, Repr

/-- The spec names no event that stops the machine: an error is a recorded outcome after which the engine goes on
(60_exceptions.md R261, R263, R267), and a missing response is a hang that reset ends (R276). So no fault exists (log 15). -/
inductive Fault where
  deriving DecidableEq, Repr

/-- Why a step gives no meaning. -/
inductive Refusal where
  /-- Raised by `exec` for an instruction without a meaning: safe. No arm of `exec` raises it: every row of the opcode
  table has its meaning, and every encoding has a defined effect (30_encoding.md R76). -/
  | notModelled (mnemonic : String)
  deriving DecidableEq, Repr

/-- `ACT` after reset: every field 0 (10_state.md R41). -/
def Descriptor.reset : Descriptor where
  valid := false
  kind := .balanced
  rfsel := false
  rounds := 0
  totalBits := 0
  sourceBits := 0
  targetBits := 0
  radixA := 0
  radixB := 0
  dir := false

/-- `ENG` after reset: IDLE, every register 0 (10_state.md R41). -/
def Engine.reset : Engine where
  phase := .idle
  j := 0
  i := 0
  ws := 0
  l := 0
  r := 0
  reqValid := false
  reqRound := 0
  reqValue := 0

/-- The machine right after reset (10_state.md R41) for given parameters, with no read made and no step pending. -/
def State.resetWith (width : Width) (rfPresent : Bool) : State where
  width := width
  rfPresent := rfPresent
  done := false
  err := false
  ovr := false
  errCode := 0
  cfgKind := 0
  cfgRfsel := false
  rounds := 0
  totalBits := 0
  sourceBits := 0
  targetBits := 0
  radixA := 0
  radixB := 0
  x := 0
  y := 0
  act := .reset
  eng := .reset
  readData := 0
  agenda := []

/-- The machine right after reset: 10_state.md R41, with W = 64 and `rf_present` = 1, the start state of
95_test_vectors.md section 3 (DESIGN CHOICE for the two parameters, log 2). -/
def State.reset : State := State.resetWith .w64 true

end Sys2Proof.Machine
end

