-- ==== Sys2Proof/Machine/Operands.lean ====
section
/-! DEFINITION. The operands of the commands, decoded from their registers as 30_encoding.md R74 says, the code of each
construction kind (R75), and the names of the register indices (10_state.md R21). -/

namespace Sys2Proof.Machine

/-- The registers of the index space (10_state.md R21). -/
inductive RegName where
  | cap
  | cmd
  | status
  | cfg
  | rounds
  | totalBits
  | sourceBits
  | targetBits
  | radixA
  | radixB
  | x
  | y
  | reserved
  deriving DecidableEq, Repr

/-- The register that an index selects (10_state.md R21): 0xC to 0xF are reserved. -/
def RegName.ofIndex (index : BitVec 4) : RegName :=
  match index.toNat with
  | 0x0 => .cap
  | 0x1 => .cmd
  | 0x2 => .status
  | 0x3 => .cfg
  | 0x4 => .rounds
  | 0x5 => .totalBits
  | 0x6 => .sourceBits
  | 0x7 => .targetBits
  | 0x8 => .radixA
  | 0x9 => .radixB
  | 0xA => .x
  | 0xB => .y
  | _ => .reserved

/-- The code of a construction kind, in CFG.KIND, ACT.KIND and STATUS.AKIND (30_encoding.md R75). -/
def Kind.code : Kind → BitVec 3
  | .balanced => 0#3
  | .unbalanced => 1#3
  | .fe1 => 2#3
  | .fe2 => 3#3

/-- The kind that a code names; none for the reserved codes 4 to 7 (30_encoding.md R75). -/
def Kind.ofCode (code : BitVec 3) : Option Kind :=
  match code.toNat with
  | 0 => some .balanced
  | 1 => some .unbalanced
  | 2 => some .fe1
  | 3 => some .fe2
  | _ => none

/-- The operand `kind` (R74): none where CFG.KIND is reserved. -/
def State.opKind (s : State) : Option Kind := Kind.ofCode s.cfgKind

/-- The operand `rfsel` (R74). -/
def State.opRfsel (s : State) : Bool := s.cfgRfsel

/-- The operand `rounds = sint_32(REG[ROUNDS])` (R74). -/
def State.opRounds (s : State) : Int := s.rounds.toInt

/-- The operand `totalBits = sint_32(REG[TOTAL_BITS])` (R74). -/
def State.opTotalBits (s : State) : Int := s.totalBits.toInt

/-- The operand `sourceBits = sint_32(REG[SOURCE_BITS])` (R74). -/
def State.opSourceBits (s : State) : Int := s.sourceBits.toInt

/-- The operand `targetBits = sint_32(REG[TARGET_BITS])` (R74). -/
def State.opTargetBits (s : State) : Int := s.targetBits.toInt

/-- The operand `a = sint_W(REG[RADIX_A])` (R74). -/
def State.opA (s : State) : Int := sintW s.width s.radixA

/-- The operand `b = sint_W(REG[RADIX_B])` (R74). -/
def State.opB (s : State) : Int := sintW s.width s.radixB

/-- The operand `x = uint(REG[X])` (R74). -/
def State.opX (s : State) : Nat := s.x.toNat

end Sys2Proof.Machine
end

