-- ==== Sys2Proof/Machine/Flags.lean ====
section
/-! DEFINITION. STATUS, the engine's only flags (10_state.md R24, R40): its readback, the error codes, and what clears and
sets the outcome of a command (40_host_access.md R104, 60_exceptions.md R261, R262). -/

namespace Sys2Proof.Machine

/-- The error causes (60_exceptions.md R260). -/
inductive ErrorCause where
  | illegalCmd
  | badKind
  | negRounds
  | badTotalBits
  | oddTotalBits
  | negSplit
  | splitExceeds
  | negRadix
  | radixOverflow
  | noRoundFunction
  | notConfigured
  | domain
  deriving DecidableEq, Repr

/-- The code of an error cause, in STATUS.ERR_CODE (60_exceptions.md R260). Code 0 is NONE; 13 to 15 name no cause. -/
def ErrorCause.code : ErrorCause → BitVec 4
  | .illegalCmd => 1#4
  | .badKind => 2#4
  | .negRounds => 3#4
  | .badTotalBits => 4#4
  | .oddTotalBits => 5#4
  | .negSplit => 6#4
  | .splitExceeds => 7#4
  | .negRadix => 8#4
  | .radixOverflow => 9#4
  | .noRoundFunction => 10#4
  | .notConfigured => 11#4
  | .domain => 12#4

/-- STATUS.BUSY: 1 exactly when ENG.PHASE is RUN or WAIT (10_state.md R33). -/
def State.busy (s : State) : Bool := s.eng.phase != .idle

/-- STATUS as a read returns it (10_state.md R24, 40_host_access.md R100). -/
def State.statusWord (s : State) : Word :=
  0#50 ++ BitVec.ofBool s.act.rfsel ++ s.act.kind.code ++ BitVec.ofBool s.act.dir ++ BitVec.ofBool s.act.valid ++
    s.errCode ++ BitVec.ofBool s.ovr ++ BitVec.ofBool s.err ++ BitVec.ofBool s.done ++ BitVec.ofBool s.busy

/-- `accept()` (40_host_access.md R104): clears the outcome of the previous command. -/
def accept (s : State) : State := { s with done := false, err := false, errCode := 0#4, ovr := false }

/-- The flags of a failed command (60_exceptions.md R261). -/
def setError (cause : ErrorCause) (s : State) : State := { s with done := false, err := true, errCode := cause.code }

/-- The flags of a completed command (60_exceptions.md R262). -/
def setDone (s : State) : State := { s with done := true, err := false, errCode := 0#4 }

end Sys2Proof.Machine
end

