-- ==== Sys2Proof/Machine/BitDomain.lean ====
section
/-! DEFINITION. One round of the bit-domain constructions BALANCED and UNBALANCED, in both directions (43_bit_domain.md).

`T`, `s` and `t` are the descriptor's totalBits, sourceBits and targetBits; `p` and `q` are the widths of a round's top and
bottom segment, `n` that of the null segment. All arithmetic is exact (R194). The reverse is the one of R186, which
replaces the source's literal recipe (90_conflicts.md C1, C2). -/

namespace Sys2Proof.Machine

/-- `nullBits = T - S - TG` (41_range_check_configure.md R121). -/
def nullBits (T s t : Nat) : Nat := T - s - t

/-- `widths(i)`: source and target widths trade places each round (43_bit_domain.md R181). -/
def widths (s t i : Nat) : Nat × Nat := if i % 2 = 0 then (s, t) else (t, s)

/-- Forward `arg` (43_bit_domain.md R185): B, the bottom q bits. -/
def bitArgForward (q ws : Nat) : Nat := ws &&& mask q

/-- Forward `upd` (43_bit_domain.md R185): B moves to the top, N stays in the middle, and A with the low p bits of the
response XORed in becomes the bottom segment. -/
def bitUpdForward (p n q ws : Nat) (F : Int) : Nat :=
  let A := ws >>> (n + q)
  let N := (ws >>> q) &&& mask n
  let B := ws &&& mask q
  (B <<< (n + p)) ||| (N <<< p) ||| (A ^^^ lowbits F p)

/-- Reverse `arg` (43_bit_domain.md R186): B, the top q bits, where the forward round put them. -/
def bitArgReverse (p n ws : Nat) : Nat := ws >>> (n + p)

/-- Reverse `upd` (43_bit_domain.md R186): the response's low p bits are XORed out of the bottom segment, which moves back
to the top, and B moves back to the bottom. -/
def bitUpdReverse (p n q ws : Nat) (F : Int) : Nat :=
  let B := ws >>> (n + p)
  let N := (ws >>> p) &&& mask n
  let C := ws &&& mask p
  let A := C ^^^ lowbits F p
  (A <<< (n + q)) ||| (N <<< q) ||| B

end Sys2Proof.Machine
end

