-- ==== Sys2Proof/Machine/Numeric.lean ====
section
/-! DEFINITION. One round of the numeric constructions FE1 and FE2, in both directions (44_numeric.md). The sums are exact
integers reduced by floor `mod`, never wrapped first (R217). -/

namespace Sys2Proof.Machine

/-- FE1 forward `arg` (44_numeric.md R212): r. -/
def fe1ArgForward (b ws : Nat) : Nat := ws % b

/-- FE1 forward `upd` (44_numeric.md R212). -/
def fe1UpdForward (a b ws : Nat) (F : Int) : Nat :=
  let l := ws / b
  let r := ws % b
  let w := floorMod (l + F) a
  a * r + w

/-- FE1 reverse `arg` (44_numeric.md R213): r. -/
def fe1ArgReverse (a ws : Nat) : Nat := ws / a

/-- FE1 reverse `upd` (44_numeric.md R213). -/
def fe1UpdReverse (a b ws : Nat) (F : Int) : Nat :=
  let w := ws % a
  let r := ws / a
  let l := floorMod (w - F) a
  b * l + r

/-- `s(i)`, the FE2 modulus of round index i (44_numeric.md R219). -/
def fe2Modulus (a b i : Nat) : Nat := if i % 2 = 0 then a else b

/-- `s_fin`, the FE2 final modulus of k rounds (44_numeric.md R219): b for k = 0. -/
def fe2Final (a b k : Nat) : Nat := if k % 2 = 0 then b else a

/-- FE2 forward `upd` on the pair (L, R) (44_numeric.md R220). -/
def fe2UpdForward (m L R : Nat) (F : Int) : Nat × Nat := (R, floorMod (L + F) m)

/-- FE2 reverse `upd` on the pair (L, R) (44_numeric.md R221). -/
def fe2UpdReverse (m L R : Nat) (F : Int) : Nat × Nat := (floorMod (R - F) m, L)

end Sys2Proof.Machine
end

