-- ==== Sys2Proof/Machine/Rounds.lean ====
section
/-! DEFINITION. The four per-kind functions `init`, `arg`, `upd`, `fin` that APPLY's steps are written in, dispatched by
ACT.KIND and ACT.DIR (42_round_function_apply.md R164), the domain of a descriptor, and the APPLY result as a
mathematical function (R168). None of them depends on W (45_width_reversal.md R243). -/

namespace Sys2Proof.Machine

/-- The working value as integers: `ENG.WS` for BALANCED, UNBALANCED and FE1, the pair (`ENG.L`, `ENG.R`) for FE2
(10_state.md R35). A kind leaves the registers it does not use as they are (log 11). -/
structure Work where
  ws : Nat
  l : Nat
  r : Nat
  deriving DecidableEq, Repr

/-- `MAX`, the domain bound (41_range_check_configure.md R122, R123): -1 for an empty radix domain. -/
def Descriptor.max (d : Descriptor) : Int :=
  match d.kind with
  | .balanced | .unbalanced => 2 ^ d.totalBits.toNat - 1
  | .fe1 | .fe2 => d.radixA.toNat * d.radixB.toNat - 1

/-- RangeCheck (41_range_check_configure.md R124): `0 <= x <= MAX`. -/
def Descriptor.inRange (d : Descriptor) (x : Nat) : Bool := decide ((x : Int) ≤ d.max)

/-- `idx(j)`, the round index of step j (42_round_function_apply.md R161). -/
def Descriptor.idx (d : Descriptor) (j : Nat) : Nat := if d.dir then d.rounds.toNat - 1 - j else j

/-- `nullBits` of a bit-domain descriptor (41_range_check_configure.md R121). -/
def Descriptor.null (d : Descriptor) : Nat := nullBits d.totalBits.toNat d.sourceBits.toNat d.targetBits.toNat

/-- The width pair (p, q) of round index i (43_bit_domain.md R181). -/
def Descriptor.widths (d : Descriptor) (i : Nat) : Nat × Nat :=
  Machine.widths d.sourceBits.toNat d.targetBits.toNat i

/-- The FE2 modulus s(i) of a descriptor (44_numeric.md R219). -/
def Descriptor.modulus (d : Descriptor) (i : Nat) : Nat := fe2Modulus d.radixA.toNat d.radixB.toNat i

/-- The FE2 final modulus of a descriptor (44_numeric.md R219). -/
def Descriptor.finalModulus (d : Descriptor) : Nat := fe2Final d.radixA.toNat d.radixB.toNat d.rounds.toNat

/-- `init(x)` (43_bit_domain.md R185, R186; 44_numeric.md R212, R213, R220, R221), over the registers' old values `st`. -/
def Descriptor.init (d : Descriptor) (st : Work) (x : Nat) : Work :=
  match d.kind, d.dir with
  | .balanced, _ | .unbalanced, _ | .fe1, _ => { st with ws := x }
  | .fe2, false => { st with l := x / d.radixB.toNat, r := x % d.radixB.toNat }
  | .fe2, true => { st with l := x / d.finalModulus, r := x % d.finalModulus }

/-- `arg(i, state)`, the value sent to the round function (43_bit_domain.md R185, R186; 44_numeric.md R212, R213, R220,
R221). -/
def Descriptor.arg (d : Descriptor) (i : Nat) (st : Work) : Nat :=
  match d.kind, d.dir with
  | .balanced, false | .unbalanced, false => bitArgForward (d.widths i).2 st.ws
  | .balanced, true | .unbalanced, true => bitArgReverse (d.widths i).1 d.null st.ws
  | .fe1, false => fe1ArgForward d.radixB.toNat st.ws
  | .fe1, true => fe1ArgReverse d.radixA.toNat st.ws
  | .fe2, false => st.r
  | .fe2, true => st.l

/-- `upd(i, state, F)`, the state after round i with the response F (43_bit_domain.md R185, R186; 44_numeric.md R212, R213,
R220, R221). -/
def Descriptor.upd (d : Descriptor) (i : Nat) (st : Work) (F : Int) : Work :=
  match d.kind, d.dir with
  | .balanced, false | .unbalanced, false =>
    { st with ws := bitUpdForward (d.widths i).1 d.null (d.widths i).2 st.ws F }
  | .balanced, true | .unbalanced, true =>
    { st with ws := bitUpdReverse (d.widths i).1 d.null (d.widths i).2 st.ws F }
  | .fe1, false => { st with ws := fe1UpdForward d.radixA.toNat d.radixB.toNat st.ws F }
  | .fe1, true => { st with ws := fe1UpdReverse d.radixA.toNat d.radixB.toNat st.ws F }
  | .fe2, false =>
    { st with l := (fe2UpdForward (d.modulus i) st.l st.r F).1, r := (fe2UpdForward (d.modulus i) st.l st.r F).2 }
  | .fe2, true =>
    { st with l := (fe2UpdReverse (d.modulus i) st.l st.r F).1, r := (fe2UpdReverse (d.modulus i) st.l st.r F).2 }

/-- `fin(state)`, the result (43_bit_domain.md R185, R186; 44_numeric.md R212, R213, R220, R221). -/
def Descriptor.fin (d : Descriptor) (st : Work) : Nat :=
  match d.kind, d.dir with
  | .balanced, _ | .unbalanced, _ | .fe1, _ => st.ws
  | .fe2, false => d.finalModulus * st.l + st.r
  | .fe2, true => d.radixB.toNat * st.l + st.r

/-- The state after the first `k` steps of the round loop, each answered by the pure round function `RF`
(42_round_function_apply.md R168). -/
def Descriptor.roundLoop (d : Descriptor) (RF : Nat → Nat → Int) (st : Work) : Nat → Work
  | 0 => st
  | k + 1 =>
    let st' := d.roundLoop RF st k
    d.upd (d.idx k) st' (RF (d.idx k) (d.arg (d.idx k) st'))

/-- `apply(D, RF, x)`, the APPLY result as a mathematical function (42_round_function_apply.md R168). -/
def Descriptor.applyFn (d : Descriptor) (RF : Nat → Nat → Int) (x : Nat) : Nat :=
  d.fin (d.roundLoop RF (d.init { ws := 0, l := 0, r := 0 } x) d.rounds.toNat)

/-- `D⁻¹`, the descriptor with DIR toggled and no other field changed (45_width_reversal.md R240, R242, R248). -/
def Descriptor.inverse (d : Descriptor) : Descriptor := { d with dir := !d.dir }

end Sys2Proof.Machine
end

