-- ==== Sys2Proof/Machine/Ops.lean ====
section
/-! DEFINITION. The shared operations over the registers: reading and staging a register, how a command ends (`fail` is the
engine's analogue of taking an exception, 60_exceptions.md R267; there is no return, R268), how a command is accepted or
dropped, and the working registers. -/

namespace Sys2Proof.Machine

/-- CAP (10_state.md R22): WIDTH in [7:0], IFVER in [15:8]. -/
def capWord (w : Width) : Word := BitVec.ofNat 64 (w.bits + interfaceVersion * 2 ^ 8)

/-- CFG as a read returns it (10_state.md R25): KIND in [2:0], RFSEL in [4], every other bit 0. -/
def State.cfgWord (s : State) : Word := 0#59 ++ BitVec.ofBool s.cfgRfsel ++ 0#1 ++ s.cfgKind

/-- The value a host read of a register returns (40_host_access.md R100; 10_state.md R21). -/
def readReg (r : RegName) (s : State) : Word :=
  match r with
  | .cap => capWord s.width
  | .cmd => 0#64
  | .status => s.statusWord
  | .cfg => s.cfgWord
  | .rounds => s.rounds.setWidth 64
  | .totalBits => s.totalBits.setWidth 64
  | .sourceBits => s.sourceBits.setWidth 64
  | .targetBits => s.targetBits.setWidth 64
  | .radixA => s.radixA
  | .radixB => s.radixB
  | .x => s.x
  | .y => s.y
  | .reserved => 0#64

/-- The store that a host write of a register performs (40_host_access.md R101). CMD stores nothing (10_state.md R23); the
read-only and reserved registers ignore the write (R21). -/
def stageReg (r : RegName) (data : Word) (s : State) : State :=
  match r with
  | .cfg => { s with cfgKind := data.extractLsb' 0 3, cfgRfsel := data.getLsbD 4 }
  | .rounds => { s with rounds := data.extractLsb' 0 32 }
  | .totalBits => { s with totalBits := data.extractLsb' 0 32 }
  | .sourceBits => { s with sourceBits := data.extractLsb' 0 32 }
  | .targetBits => { s with targetBits := data.extractLsb' 0 32 }
  | .radixA => { s with radixA := truncTo s.width data }
  | .radixB => { s with radixB := truncTo s.width data }
  | .x => { s with x := truncTo s.width data }
  | .cap | .cmd | .status | .y | .reserved => s

/-- `ENG.PHASE <- IDLE`, with which every command ends (60_exceptions.md R261, R262). -/
def goIdle (s : State) : State := { s with eng := { s.eng with phase := .idle } }

/-- `fail(code)` (60_exceptions.md R261): the outcome is recorded, and nothing else changes. -/
def fail (cause : ErrorCause) (s : State) : State := goIdle (setError cause s)

/-- `complete()` (60_exceptions.md R262). -/
def complete (s : State) : State := goIdle (setDone s)

/-- The arrival of a command (40_host_access.md R103): dropped while an APPLY is executing, which sets OVR and changes
nothing else; otherwise accepted, and `command` carries it out in the same step. -/
def whenIdle (command : State → State) (s : State) : State :=
  if s.busy then { s with ovr := true } else command (accept s)

/-- The engine's outputs on the round-function port: `rf_req_valid`, `rf_req_round` and `rf_req_value`
(42_round_function_apply.md R151). -/
structure RfRequest where
  valid : Bool
  round : BitVec 32
  value : Word
  deriving DecidableEq, Repr

/-- The round-function port as the agent sees it: the request registers (42_round_function_apply.md R151). -/
def State.rfRequest (s : State) : RfRequest :=
  { valid := s.eng.reqValid, round := s.eng.reqRound, value := s.eng.reqValue }

/-- The working registers as integers (10_state.md R35). -/
def Engine.work (e : Engine) : Work := { ws := e.ws.toNat, l := e.l.toNat, r := e.r.toNat }

/-- The working registers written back, each as a W-bit word (00_scope.md R8, 10_state.md R35). -/
def State.setWork (s : State) (st : Work) : State :=
  { s with eng :=
    { s.eng with ws := zextTo s.width st.ws, l := zextTo s.width st.l, r := zextTo s.width st.r } }

end Sys2Proof.Machine
end

