-- ==== Sys2Proof/Machine/Apply.lean ====
section
/-! DEFINITION. APPLY (42_round_function_apply.md R160 to R170): its accepting step, the engine's step in phase RUN, the
taking of a response in phase WAIT, and the completing step. -/

namespace Sys2Proof.Machine

/-- APPLY in its accepting step, after `accept()` (42_round_function_apply.md R160). -/
def applyCommand (s : State) : State :=
  if s.act.valid = false then fail .notConfigured s
  else if s.act.inRange s.opX = false then fail .domain s
  else
    let s := s.setWork (s.act.init s.eng.work s.opX)
    { s with eng := { s.eng with j := 0#32, phase := .run } }

/-- APPLY (42_round_function_apply.md R160; 40_host_access.md R103). The word's bits [W-1:8] are ignored (30_encoding.md
R72). -/
def execApply (_upper : BitVec 56) (s : State) : Host.Outcome State Fault Refusal :=
  .next (whenIdle applyCommand s)

/-- `finish()`, the completing step (42_round_function_apply.md R166). -/
def finish (s : State) : State := complete { s with y := zextTo s.width (s.act.fin s.eng.work) }

/-- The end of round ENG.I with the response F: the working registers are updated and ENG.J counts the round
(42_round_function_apply.md R162, R163). -/
def endRound (F : Int) (s : State) : State :=
  let s := s.setWork (s.act.upd s.eng.i.toNat s.eng.work F)
  { s with eng := { s.eng with j := s.eng.j + 1#32 } }

/-- The built-in identity round function: `sint_W(zext_W(v))` (42_round_function_apply.md R154). -/
def identityRF (w : Width) (v : Nat) : Int := sintW w (zextTo w v)

/-- The request of round i with the value v, after which the engine waits (42_round_function_apply.md R162). -/
def sendRequest (v : Nat) (s : State) : State :=
  { s with eng :=
    { s.eng with reqRound := s.eng.i, reqValue := zextTo s.width v, reqValid := true, phase := .wait } }

/-- The start of the next round in phase RUN (42_round_function_apply.md R162): the built-in round function answers in the
same step; the external one is sent a request. -/
def startRound (s : State) : State :=
  let s := { s with eng := { s.eng with i := BitVec.ofNat 32 (s.act.idx s.eng.j.toNat) } }
  let v := s.act.arg s.eng.i.toNat s.eng.work
  if s.act.rfsel then endRound (identityRF s.width v) s else sendRequest v s

/-- The engine's own step (42_round_function_apply.md R162): enabled in phase RUN only. In IDLE it does nothing
(60_exceptions.md R275), in WAIT it has no step without a response (R156, R163). -/
def engineStep (s : State) : State :=
  match s.eng.phase with
  | .idle => s
  | .wait => s
  | .run => if s.eng.j = s.act.rounds then finish s else startRound s

/-- The round-function agent offers a response word (42_round_function_apply.md R163): in phase WAIT the engine takes it;
otherwise no request is outstanding and it is ignored (R152). -/
def takeResponse (data : Word) (s : State) : State :=
  match s.eng.phase with
  | .idle => s
  | .run => s
  | .wait =>
    let s := endRound (sintW s.width data) s
    { s with eng := { s.eng with reqValid := false, phase := .run } }

end Sys2Proof.Machine
end

