-- ==== Sys2Proof/Machine/Configure.lean ====
section
/-! DEFINITION. CONFIGURE (41_range_check_configure.md R120 to R139): the validation of the staged construction, check by
check in the order of R130, and the load of the active descriptor. Every comparison is on exact integers (R125). -/

namespace Sys2Proof.Machine

/-- The domain fields of a descriptor as the checks leave them (41_range_check_configure.md R137). -/
structure DomainFields where
  total : Int
  source : Int
  target : Int
  a : Int
  b : Int
  deriving DecidableEq, Repr

/-- The checks of BALANCED (41_range_check_configure.md R133). -/
def checkBalanced (s : State) : Except ErrorCause DomainFields :=
  let T := s.opTotalBits
  if T < 0 ∨ (s.width.bits : Int) < T then .error .badTotalBits
  else if T % 2 ≠ 0 then .error .oddTotalBits
  else .ok { total := T, source := T / 2, target := T / 2, a := 0, b := 0 }

/-- The checks of UNBALANCED (41_range_check_configure.md R133, R134). -/
def checkUnbalanced (s : State) : Except ErrorCause DomainFields :=
  let T := s.opTotalBits
  if T < 0 ∨ (s.width.bits : Int) < T then .error .badTotalBits
  else if s.opSourceBits < 0 ∨ s.opTargetBits < 0 then .error .negSplit
  else if T < s.opSourceBits + s.opTargetBits then .error .splitExceeds
  else .ok { total := T, source := s.opSourceBits, target := s.opTargetBits, a := 0, b := 0 }

/-- The checks of FE1 and FE2 (41_range_check_configure.md R135). -/
def checkRadix (s : State) : Except ErrorCause DomainFields :=
  if s.opA < 0 ∨ s.opB < 0 then .error .negRadix
  else if (maxs s.width : Int) < s.opA * s.opB then .error .radixOverflow
  else .ok { total := 0, source := 0, target := 0, a := s.opA, b := s.opB }

/-- The checks of a kind's own operands (41_range_check_configure.md R130). -/
def checkDomain (k : Kind) (s : State) : Except ErrorCause DomainFields :=
  match k with
  | .balanced => checkBalanced s
  | .unbalanced => checkUnbalanced s
  | .fe1 => checkRadix s
  | .fe2 => checkRadix s

/-- The descriptor of a construction that passed its checks (41_range_check_configure.md R137): forward. -/
def mkDescriptor (k : Kind) (s : State) (f : DomainFields) : Descriptor where
  valid := true
  kind := k
  rfsel := s.opRfsel
  rounds := BitVec.ofInt 32 s.opRounds
  totalBits := BitVec.ofInt 32 f.total
  sourceBits := BitVec.ofInt 32 f.source
  targetBits := BitVec.ofInt 32 f.target
  radixA := BitVec.ofInt 64 f.a
  radixB := BitVec.ofInt 64 f.b
  dir := false

/-- The checks of CONFIGURE in their order (41_range_check_configure.md R130 to R136): the first that fails, or the new
descriptor. -/
def validate (s : State) : Except ErrorCause Descriptor :=
  match s.opKind with
  | none => .error .badKind
  | some k =>
    if s.opRounds < 0 then .error .negRounds
    else
      match checkDomain k s with
      | .error cause => .error cause
      | .ok f =>
        if s.opRfsel = false ∧ s.rfPresent = false then .error .noRoundFunction
        else .ok (mkDescriptor k s f)

/-- CONFIGURE in its accepting step, after `accept()` (41_range_check_configure.md R130, R137). -/
def configureCommand (s : State) : State :=
  match validate s with
  | .error cause => fail cause s
  | .ok d => complete { s with act := d }

/-- CONFIGURE (41_range_check_configure.md R130; 40_host_access.md R103). The word's bits [W-1:8] are ignored
(30_encoding.md R72). -/
def execConfigure (_upper : BitVec 56) (s : State) : Host.Outcome State Fault Refusal :=
  .next (whenIdle configureCommand s)

end Sys2Proof.Machine
end

