-- ==== Sys2Proof/Machine/Invert.lean ====
section
/-! DEFINITION. INVERT (45_width_reversal.md R240, R241, R248). -/

namespace Sys2Proof.Machine

/-- INVERT in its accepting step, after `accept()` (45_width_reversal.md R240): DIR is toggled and no field is swapped
(R248). -/
def invertCommand (s : State) : State :=
  if s.act.valid = false then fail .notConfigured s else complete { s with act := s.act.inverse }

/-- INVERT (45_width_reversal.md R240; 40_host_access.md R103). The word's bits [W-1:8] are ignored (30_encoding.md R72). -/
def execInvert (_upper : BitVec 56) (s : State) : Host.Outcome State Fault Refusal :=
  .next (whenIdle invertCommand s)

end Sys2Proof.Machine
end

