-- ==== Sys2Proof/Machine/HostAccess.lean ====
section
/-! DEFINITION. The host's register accesses, REG_READ and REG_WRITE (40_host_access.md R100 to R104), the presentation of a
command word, and reset (70_reset_and_hazards.md R290). -/

namespace Sys2Proof.Machine

/-- The word a host read returns (40_host_access.md R100): 0 when the header's reserved field is not 0 (30_encoding.md
R76). -/
def busRead (rsv : BitVec 3) (index : BitVec 4) (s : State) : Word :=
  if rsv = 0#3 then readReg (.ofIndex index) s else 0#64

/-- REG_READ (40_host_access.md R100): the word goes to the host, and no engine state changes (20_memory.md R54). -/
def execRegRead (rsv : BitVec 3) (index : BitVec 4) (s : State) : Host.Outcome State Fault Refusal :=
  .next { s with readData := busRead rsv index s }

/-- What an accepted command word does, by its OP alone (40_host_access.md R103, 30_encoding.md R73). -/
def commandOf (op : BitVec 8) : State → State :=
  if op = 0x01#8 then configureCommand
  else if op = 0x02#8 then applyCommand
  else if op = 0x03#8 then invertCommand
  else fail .illegalCmd

/-- `present_command(DATA)` (40_host_access.md R103). -/
def presentCommand (data : Word) (s : State) : State := whenIdle (commandOf (opOf data)) s

/-- A host write of a register (40_host_access.md R101): CMD is presented the word, every other register is staged or
ignores it, and a transaction whose reserved field is not 0 is ignored (30_encoding.md R76). -/
def busWrite (rsv : BitVec 3) (index : BitVec 4) (data : Word) (s : State) : State :=
  if rsv = 0#3 then
    match RegName.ofIndex index with
    | .cmd => presentCommand data s
    | r => stageReg r data s
  else s

/-- REG_WRITE (40_host_access.md R101). -/
def execRegWrite (rsv : BitVec 3) (index : BitVec 4) (data : Word) (s : State) : Host.Outcome State Fault Refusal :=
  .next (busWrite rsv index data s)

/-- Reset (70_reset_and_hazards.md R290): every piece of state at its value of 10_state.md R41, an APPLY in flight aborted
and an outstanding request withdrawn. The parameters stay (R291), and so do the host's side of the port and the agents'
later steps, which are no state of the engine (logs 3 and 6). -/
def resetEngine (s : State) : State :=
  { State.resetWith s.width s.rfPresent with readData := s.readData, agenda := s.agenda }

end Sys2Proof.Machine
end

