-- ==== Sys2Proof/Machine/Dispatch.lean ====
section
/-! DEFINITION. The meaning of each instruction of spec/opcode_table.json, one arm each. -/

namespace Sys2Proof.Machine

-- A BUS transaction (30_encoding.md R71) or a command carried by one (R72).
def exec (i : Instr) (s : State) : Host.Outcome State Fault Refusal :=
  match i with
  | .regRead rsv index => Sys2Proof.Machine.execRegRead rsv index s
  | .regWrite rsv index data => Sys2Proof.Machine.execRegWrite rsv index data s
  | .configure upper => Sys2Proof.Machine.execConfigure upper s
  | .apply upper => Sys2Proof.Machine.execApply upper s
  | .invert upper => Sys2Proof.Machine.execInvert upper s

end Sys2Proof.Machine
end

