-- ==== Sys2Proof/Machine/Step.lean ====
section
/-! DEFINITION. One step of the machine: the oldest pending step of an agent (10_state.md R20), or, when none is pending, the
engine's own. The step only calls what the files of the machine define. -/

namespace Sys2Proof.Machine

/-- One step. The agenda orders the agents' steps (10_state.md R20; log 3); a host transaction is decoded and executed
whole (20_memory.md R53, R57). With an empty agenda only the engine may move: in IDLE, and in WAIT without a response,
nothing changes (42_round_function_apply.md R156; log 4). -/
def step (s : State) : Host.Outcome State Fault Refusal :=
  match s.agenda with
  | [] => .next (engineStep s)
  | .host t :: later => exec (decode s.width t) { s with agenda := later }
  | .engine :: later => .next (engineStep { s with agenda := later })
  | .response data :: later => .next (takeResponse data { s with agenda := later })
  | .rfPresent level :: later => .next { s with agenda := later, rfPresent := level }
  | .reset :: later => .next (resetEngine { s with agenda := later })

/-- The state in which the host's next transaction is the one that the table bits `w` stand for (log 5): it is placed before
every other pending step. Bits of a length that no row has change nothing. -/
def State.withFetchWord (s : State) (nbits w : Nat) : State :=
  match tableTxn nbits w with
  | some t => { s with agenda := .host t :: s.agenda }
  | none => s

end Sys2Proof.Machine
end

