-- ==== Sys2Proof/Machine/HostSyntax.lean ====
section
/-! DEFINITION. The host's notation for sequences of BUS transactions (30_encoding.md R78 to R80). It adds nothing to the
machine: each word of it is a list of transactions that the host may issue. The host's own control flow, the loop of
`poll`, is the host's (log 17): `pollAgain` is its decision, and `perm` takes the number of reads it makes. -/

namespace Sys2Proof.Machine

/-- The index of a register (10_state.md R21); for the reserved registers, the first of them. -/
def RegName.index : RegName → BitVec 4
  | .cap => 0x0#4
  | .cmd => 0x1#4
  | .status => 0x2#4
  | .cfg => 0x3#4
  | .rounds => 0x4#4
  | .totalBits => 0x5#4
  | .sourceBits => 0x6#4
  | .targetBits => 0x7#4
  | .radixA => 0x8#4
  | .radixB => 0x9#4
  | .x => 0xA#4
  | .y => 0xB#4
  | .reserved => 0xC#4

/-- `wr REG, value` (30_encoding.md R78): a negative value stands for its two's-complement pattern, of which the port
carries the low W bits. -/
def wr (r : RegName) (value : Int) : BusTxn := encode (.regWrite 0#3 r.index (BitVec.ofInt 64 value))

/-- `rd REG` (30_encoding.md R78). -/
def rd (r : RegName) : BusTxn := encode (.regRead 0#3 r.index)

/-- `cmd configure` (30_encoding.md R79). -/
def cmdConfigure : BusTxn := wr .cmd 0x01

/-- `cmd apply` (30_encoding.md R79). -/
def cmdApply : BusTxn := wr .cmd 0x02

/-- `cmd invert` (30_encoding.md R79). -/
def cmdInvert : BusTxn := wr .cmd 0x03

/-- The host's decision in `poll` (30_encoding.md R79): it reads STATUS again while bit [0] of the word read is 1. -/
def pollAgain (status : Word) : Bool := status.getLsbD 0

/-- The CFG word of a kind and a round-function selection, `(SEL << 4) | KIND` (30_encoding.md R79). -/
def cfgValue (k : Kind) (sel : Bool) : Int := (if sel then 16 else 0) + k.code.toNat

/-- `cfg.bal R, T, SEL` (30_encoding.md R79). -/
def cfgBal (R T : Int) (sel : Bool) : List BusTxn :=
  [wr .cfg (cfgValue .balanced sel), wr .rounds R, wr .totalBits T, cmdConfigure]

/-- `cfg.unb R, T, S, TG, SEL` (30_encoding.md R79). -/
def cfgUnb (R T S TG : Int) (sel : Bool) : List BusTxn :=
  [wr .cfg (cfgValue .unbalanced sel), wr .rounds R, wr .totalBits T, wr .sourceBits S, wr .targetBits TG, cmdConfigure]

/-- `cfg.fe1 R, A, B, SEL` (30_encoding.md R79). -/
def cfgFe1 (R A B : Int) (sel : Bool) : List BusTxn :=
  [wr .cfg (cfgValue .fe1 sel), wr .rounds R, wr .radixA A, wr .radixB B, cmdConfigure]

/-- `cfg.fe2 R, A, B, SEL` (30_encoding.md R79). -/
def cfgFe2 (R A B : Int) (sel : Bool) : List BusTxn :=
  [wr .cfg (cfgValue .fe2 sel), wr .rounds R, wr .radixA A, wr .radixB B, cmdConfigure]

/-- `id.cfg` for BALANCED (30_encoding.md R79): the matching `cfg` with R = 0, the identity permutation of the domain. -/
def idCfgBal (T : Int) (sel : Bool) : List BusTxn := cfgBal 0 T sel

/-- `id.cfg` for UNBALANCED (30_encoding.md R79). -/
def idCfgUnb (T S TG : Int) (sel : Bool) : List BusTxn := cfgUnb 0 T S TG sel

/-- `id.cfg` for FE1 (30_encoding.md R79). -/
def idCfgFe1 (A B : Int) (sel : Bool) : List BusTxn := cfgFe1 0 A B sel

/-- `id.cfg` for FE2 (30_encoding.md R79). -/
def idCfgFe2 (A B : Int) (sel : Bool) : List BusTxn := cfgFe2 0 A B sel

/-- `perm V` (30_encoding.md R79) for a host whose poll reads STATUS `polls` times. -/
def perm (V : Int) (polls : Nat) : List BusTxn :=
  [wr .x V, cmdApply] ++ List.replicate polls (rd .status) ++ [rd .y]

end Sys2Proof.Machine
end

