-- ==== Sys2Proof/Safety.lean ====
section
/-! DEFINITION. What the claims are stated in: the legal descriptors (10_state.md R30), the invariant of the machine's states,
and the run of an APPLY whose requests a pure round function answers. -/

namespace Sys2Proof.Machine

/-- The legal values of a descriptor's fields while VALID = 1 (10_state.md R30), with the fields a kind does not use 0 and
the balanced split (41_range_check_configure.md R120, R137). -/
def Descriptor.Legal (w : Width) (d : Descriptor) : Prop :=
  d.valid = true ∧ d.rounds.toNat < 2 ^ 31 ∧
  match d.kind with
  | .balanced =>
    d.totalBits.toNat ≤ w.bits ∧ d.totalBits.toNat % 2 = 0 ∧ d.sourceBits.toNat = d.totalBits.toNat / 2 ∧
      d.targetBits.toNat = d.totalBits.toNat / 2 ∧ d.radixA = 0 ∧ d.radixB = 0
  | .unbalanced =>
    d.totalBits.toNat ≤ w.bits ∧ d.sourceBits.toNat + d.targetBits.toNat ≤ d.totalBits.toNat ∧
      d.radixA = 0 ∧ d.radixB = 0
  | .fe1 | .fe2 =>
    d.totalBits = 0 ∧ d.sourceBits = 0 ∧ d.targetBits = 0 ∧ d.radixA.toNat ≤ maxs w ∧ d.radixB.toNat ≤ maxs w ∧
      d.radixA.toNat * d.radixB.toNat ≤ maxs w

/-- The range of the working registers after `j` rounds (43_bit_domain.md R187, 44_numeric.md R214, R222): for the kinds that
use ENG.WS, the domain; for FE2, L below the modulus of the round at the pair's position and R below the other one, where
the position counts up forward and down in reverse. -/
def Descriptor.InRounds (d : Descriptor) (j : Nat) (st : Work) : Prop :=
  match d.kind with
  | .balanced | .unbalanced | .fe1 => (st.ws : Int) ≤ d.max
  | .fe2 =>
    let pos := if d.dir then d.rounds.toNat - j else j
    st.l < d.modulus pos ∧ st.r < d.modulus (pos + 1)

/-- Two working values agree in the registers that the descriptor's kind uses (10_state.md R35). -/
def Descriptor.SameWork (d : Descriptor) (st st' : Work) : Prop :=
  match d.kind with
  | .balanced | .unbalanced | .fe1 => st.ws = st'.ws
  | .fe2 => st.l = st'.l ∧ st.r = st'.r

/-- Every W-bit register and port word has W bits (10_state.md R21, R35; log 1). -/
def State.WordsFit (s : State) : Prop :=
  fitsIn s.width s.radixA ∧ fitsIn s.width s.radixB ∧ fitsIn s.width s.x ∧ fitsIn s.width s.y ∧
  fitsIn s.width s.eng.ws ∧ fitsIn s.width s.eng.l ∧ fitsIn s.width s.eng.r ∧ fitsIn s.width s.eng.reqValue ∧
  fitsIn s.width s.readData

/-- STATUS's outcome bits agree with each other and with the phase (10_state.md R24; 60_exceptions.md R260: ERR_CODE is 0
while ERR = 0, and 13 to 15 are never produced). -/
def State.StatusOk (s : State) : Prop :=
  ¬(s.done = true ∧ s.err = true) ∧ ¬(s.busy = true ∧ s.done = true) ∧ ¬(s.busy = true ∧ s.err = true) ∧
  (s.err = true ↔ s.errCode ≠ 0#4) ∧ s.errCode.toNat ≤ 12

/-- The engine in phase WAIT holds the request of the round in progress (42_round_function_apply.md R162). -/
def State.RequestOk (s : State) : Prop :=
  s.act.rfsel = false ∧ s.eng.j.toNat < s.act.rounds.toNat ∧ s.eng.i.toNat = s.act.idx s.eng.j.toNat ∧
  s.eng.reqRound = s.eng.i ∧ s.eng.reqValue.toNat = s.act.arg s.eng.i.toNat s.eng.work

/-- The invariant of the machine: what every step keeps, whatever agent takes it. -/
structure State.Inv (s : State) : Prop where
  /-- Registers have W bits. -/
  wordsFit : s.WordsFit
  /-- The outcome bits of STATUS are consistent (10_state.md R24). -/
  statusOk : s.StatusOk
  /-- `ACT` is legal while VALID = 1 (10_state.md R30), and every field is 0 before the first CONFIGURE (R31, R41). -/
  actOk : s.act.Legal s.width ∨ s.act = .reset
  /-- `ENG.REQ_VALID = 1` exactly in phase WAIT (10_state.md R36). -/
  requestIffWait : s.eng.reqValid = true ↔ s.eng.phase = .wait
  /-- An APPLY in progress has a valid descriptor, at most ROUNDS rounds done (10_state.md R34), and its working value in
  range. -/
  busyOk : s.eng.phase ≠ .idle →
    s.act.valid = true ∧ s.eng.j.toNat ≤ s.act.rounds.toNat ∧ s.act.InRounds s.eng.j.toNat s.eng.work
  /-- In WAIT the request registers hold the request of round ENG.J. -/
  waitOk : s.eng.phase = .wait → s.RequestOk

/-- A round function whose responses are W-bit words read as two's complement (42_round_function_apply.md R153). -/
def RespondsIn (w : Width) (RF : Nat → Nat → Int) : Prop :=
  ∀ i v, -(2 ^ (w.bits - 1) : Int) ≤ RF i v ∧ RF i v < 2 ^ (w.bits - 1)

/-- The next event of an APPLY in progress whose requests the round function `RF` answers at once: its answer while a
request is outstanding, otherwise the engine's own step. -/
def answerWith (RF : Nat → Nat → Int) (s : State) : Event :=
  if s.rfRequest.valid then .response (BitVec.ofInt 64 (RF s.rfRequest.round.toNat s.rfRequest.value.toNat))
  else .engine

/-- The state after `n` steps of the machine, each taken on the event `answerWith` (42_round_function_apply.md R168). -/
def answeredRun (RF : Nat → Nat → Int) : Nat → State → State
  | 0, s => s
  | n + 1, s =>
    match step { s with agenda := [answerWith RF s] } with
    | .next t => answeredRun RF n t
    | .fault _ => s
    | .refused _ => s

/-- The state after the steps of the events `es`, taken one by one (10_state.md R20). -/
def runEvents : List Event → State → State
  | [], s => s
  | e :: es, s =>
    match step { s with agenda := [e] } with
    | .next t => runEvents es t
    | .fault _ => s
    | .refused _ => s

/-- The events `es` are steps that agents may take, in any order, while one APPLY is in progress: each falls before its
completing step, none is reset, and every response that the engine takes is `RF`'s value for the outstanding request
(42_round_function_apply.md R168). Host transactions, changes of `rf_present` and responses that nothing asked for may be
among them. -/
def AnsweredBy (RF : Nat → Nat → Int) : List Event → State → Prop
  | [], _ => True
  | e :: es, s =>
    s.eng.phase ≠ .idle ∧ e ≠ .reset ∧
      (∀ data, e = .response data → s.eng.phase = .wait →
        sintW s.width data = RF s.rfRequest.round.toNat s.rfRequest.value.toNat) ∧
      AnsweredBy RF es (runEvents [e] s)

/-- The round-function requests that become outstanding along the events `es`, in their order
(42_round_function_apply.md R152, R155). -/
def requestsSent : List Event → State → List (Nat × Nat)
  | [], _ => []
  | e :: es, s =>
    let t := runEvents [e] s
    (if s.rfRequest.valid = false ∧ t.rfRequest.valid = true then [(t.rfRequest.round.toNat, t.rfRequest.value.toNat)]
      else []) ++ requestsSent es t

end Sys2Proof.Machine
end

