-- ==== Sys2Proof/Certificates/Slice0/Obligations.lean ====
section
/-! DEFINITION. The statements for the provers. Each docstring says which rule of spec/ the statement formalises. -/

open Sys2Proof Sys2Proof.Machine

/-! `s.agenda = e :: later` says whose step is next, and of what: the model's form of the free order of R20 (log 3). Every
statement with it holds for every `later`, so none rests on an order. -/

/-! ## Encoding -/

/-- One transaction of each family, written out from 30_encoding.md R71 to R73, decodes to the instruction it stands for. -/
def Obligations.SampleTransactionsDecode : Prop :=
  decode .w64 { header := 0b00000010#8, data := 0#64 } = .regRead 0#3 0x2#4 ∧
  decode .w64 { header := 0b10000101#8, data := 16#64 } = .regWrite 0#3 0x5#4 16#64 ∧
  decode .w32 { header := 0b10011010#8, data := 5#64 } = .regWrite 1#3 0xA#4 5#64 ∧
  decode .w64 { header := 0b10000001#8, data := 0x01#64 } = .configure 0#56 ∧
  decode .w64 { header := 0b10000001#8, data := 0x102#64 } = .apply 1#56 ∧
  decode .w32 { header := 0b10000001#8, data := 0x03#64 } = .invert 0#56 ∧
  decode .w64 { header := 0b10000001#8, data := 0x07#64 } = .regWrite 0#3 0x1#4 0x07#64

/-- Decoding the transaction that carries a well-formed instruction gives the instruction back, with every operand. -/
def Obligations.DecodeInvertsEncode : Prop :=
  ∀ (w : Width) (i : Instr), i.wellFormed w = true → decode w (encode i) = i

/-- Every transaction of a W-bit port decodes to a well-formed instruction, and encoding it gives the transaction back; of a
read, whose data word the port does not carry, the header (30_encoding.md R71). -/
def Obligations.EncodeInvertsDecode : Prop :=
  ∀ (w : Width) (t : BusTxn), fitsIn w t.data = true →
    (decode w t).wellFormed w = true ∧
    (encode (decode w t)).header = t.header ∧
    (128 ≤ t.header.toNat → encode (decode w t) = t)

/-- A write to CMD names its command by the word's low eight bits alone (30_encoding.md R72, R73). -/
def Obligations.CommandNamedByLowByte : Prop :=
  ∀ (w : Width) (data : Word), fitsIn w data = true →
    (data.toNat % 256 = 1 → ∃ u : BitVec 56,
      decode w { header := 0x81#8, data := data } = .configure u ∧ u.toNat = data.toNat / 256) ∧
    (data.toNat % 256 = 2 → ∃ u : BitVec 56,
      decode w { header := 0x81#8, data := data } = .apply u ∧ u.toNat = data.toNat / 256) ∧
    (data.toNat % 256 = 3 → ∃ u : BitVec 56,
      decode w { header := 0x81#8, data := data } = .invert u ∧ u.toNat = data.toNat / 256) ∧
    (data.toNat % 256 = 0 ∨ 4 ≤ data.toNat % 256 →
      decode w { header := 0x81#8, data := data } = .regWrite 0#3 0x1#4 data)

/-! ## The step -/

/-- When a host transaction is the oldest pending step, the machine's step is the meaning of the instruction it decodes to,
on the state with that transaction taken off the agenda; what it decodes to is well formed. (The agenda is the model's,
log 3.) -/
def Obligations.StepRunsDecodedTransaction : Prop :=
  ∀ (s : State) (t : BusTxn) (later : List Event), s.agenda = .host t :: later →
    (decode s.width t).wellFormed s.width = true ∧
    step s = exec (decode s.width t) { s with agenda := later }

/-- Every step answers a next state. The spec gives every encoding an effect (30_encoding.md R76) and has no trap
(60_exceptions.md R267); that the machine therefore has no fault and refuses nothing is the model's inference (log 15), and
that a step with nothing pending answers the unchanged state in IDLE and in WAIT, where the spec enables none, is the model's
choice (log 4). -/
def Obligations.StepAlwaysAnswers : Prop := ∀ s : State, ∃ t : State, step s = .next t

/-! ## Reset -/

/-- After reset every piece of state holds R41's value, whatever the parameters; State.reset is the reset state of some
parameters (which ones is the model's choice, log 2). -/
def Obligations.ResetStateValues : Prop :=
  (∀ (w : Width) (p : Bool),
    let s := State.resetWith w p
    s.width = w ∧ s.rfPresent = p ∧
    (readReg .cap s).toNat = w.bits + 256 ∧ readReg .status s = 0#64 ∧
    s.busy = false ∧ s.done = false ∧ s.err = false ∧ s.ovr = false ∧ s.errCode = 0#4 ∧
    s.cfgKind = 0#3 ∧ s.cfgRfsel = false ∧
    s.rounds = 0#32 ∧ s.totalBits = 0#32 ∧ s.sourceBits = 0#32 ∧ s.targetBits = 0#32 ∧
    s.radixA = 0#64 ∧ s.radixB = 0#64 ∧ s.x = 0#64 ∧ s.y = 0#64 ∧
    s.act.valid = false ∧ s.act.kind.code = 0#3 ∧ s.act.rfsel = false ∧ s.act.rounds = 0#32 ∧
    s.act.totalBits = 0#32 ∧ s.act.sourceBits = 0#32 ∧ s.act.targetBits = 0#32 ∧
    s.act.radixA = 0#64 ∧ s.act.radixB = 0#64 ∧ s.act.dir = false ∧
    s.eng.phase = .idle ∧ s.eng.j = 0#32 ∧ s.eng.i = 0#32 ∧
    s.eng.ws = 0#64 ∧ s.eng.l = 0#64 ∧ s.eng.r = 0#64 ∧
    s.eng.reqValid = false ∧ s.eng.reqRound = 0#32 ∧ s.eng.reqValue = 0#64) ∧
  (∃ w p, State.reset = State.resetWith w p)

/-- The reset event, in any state: every piece of the engine's state takes its reset value, an APPLY in flight and its
request among it, and the parameters W and rf_present stay. (The host's last read word and the later steps of the agents
are no state of the engine: logs 3 and 6.) -/
def Obligations.ResetEventRestoresResetState : Prop :=
  ∀ (s : State) (later : List Event), s.agenda = .reset :: later →
    step s = .next { State.resetWith s.width s.rfPresent with readData := s.readData, agenda := later }

/-! ## Register reads and writes -/

/-- REG_READ (40_host_access.md R100): the word that a read of each register returns, STATUS field by field (10_state.md R24),
and that nothing else changes. -/
def Obligations.RegReadReturnsRegister : Prop :=
  ∀ (s : State) (rsv : BitVec 3) (index : BitVec 4), ∃ v : Word,
    exec (.regRead rsv index) s = .next { s with readData := v } ∧
    (rsv ≠ 0#3 → v = 0#64) ∧
    (rsv = 0#3 →
      (index = 0x0#4 → v.toNat = s.width.bits + 2 ^ 8) ∧
      (index = 0x1#4 ∨ 0xC ≤ index.toNat → v = 0#64) ∧
      (index = 0x2#4 → v.toNat =
        (if s.eng.phase = .idle then 0 else 1) + 2 * s.done.toNat + 4 * s.err.toNat + 8 * s.ovr.toNat +
          2 ^ 4 * s.errCode.toNat + 2 ^ 8 * s.act.valid.toNat + 2 ^ 9 * s.act.dir.toNat +
          2 ^ 10 * (match s.act.kind with | .balanced => 0 | .unbalanced => 1 | .fe1 => 2 | .fe2 => 3) +
          2 ^ 13 * s.act.rfsel.toNat) ∧
      (index = 0x3#4 → v.toNat = s.cfgKind.toNat + 2 ^ 4 * s.cfgRfsel.toNat) ∧
      (index = 0x4#4 → v.toNat = s.rounds.toNat) ∧
      (index = 0x5#4 → v.toNat = s.totalBits.toNat) ∧
      (index = 0x6#4 → v.toNat = s.sourceBits.toNat) ∧
      (index = 0x7#4 → v.toNat = s.targetBits.toNat) ∧
      (index = 0x8#4 → v = s.radixA) ∧
      (index = 0x9#4 → v = s.radixB) ∧
      (index = 0xA#4 → v = s.x) ∧
      (index = 0xB#4 → v = s.y))

/-- REG_WRITE of a staging register: the register takes the written word's field bits, and nothing else changes, in any phase. -/
def Obligations.RegWriteStagesRegister : Prop :=
  ∀ (s : State) (data : Word), fitsIn s.width data = true →
    exec (.regWrite 0#3 0x3#4 data) s =
      .next { s with cfgKind := BitVec.ofNat 3 (data.toNat % 8), cfgRfsel := decide (data.toNat / 16 % 2 = 1) } ∧
    exec (.regWrite 0#3 0x4#4 data) s = .next { s with rounds := BitVec.ofNat 32 (data.toNat % 2 ^ 32) } ∧
    exec (.regWrite 0#3 0x5#4 data) s = .next { s with totalBits := BitVec.ofNat 32 (data.toNat % 2 ^ 32) } ∧
    exec (.regWrite 0#3 0x6#4 data) s = .next { s with sourceBits := BitVec.ofNat 32 (data.toNat % 2 ^ 32) } ∧
    exec (.regWrite 0#3 0x7#4 data) s = .next { s with targetBits := BitVec.ofNat 32 (data.toNat % 2 ^ 32) } ∧
    exec (.regWrite 0#3 0x8#4 data) s = .next { s with radixA := data } ∧
    exec (.regWrite 0#3 0x9#4 data) s = .next { s with radixB := data } ∧
    exec (.regWrite 0#3 0xA#4 data) s = .next { s with x := data }

/-- REG_WRITE of a read-only or reserved register, or with a reserved header field, changes nothing. -/
def Obligations.IgnoredWritesChangeNothing : Prop :=
  ∀ (s : State) (rsv : BitVec 3) (index : BitVec 4) (data : Word),
    rsv ≠ 0#3 ∨ index = 0x0#4 ∨ index = 0x2#4 ∨ 0xB ≤ index.toNat →
    exec (.regWrite rsv index data) s = .next s

/-- A read after a write of the same read-write register returns the written field bits, every other bit 0. -/
def Obligations.ReadAfterWriteReturnsFields : Prop :=
  ∀ (s : State) (index : BitVec 4) (data : Word), fitsIn s.width data = true →
    0x3 ≤ index.toNat → index.toNat ≤ 0xA →
    ∃ (t : State) (v : Word), exec (.regWrite 0#3 index data) s = .next t ∧
      exec (.regRead 0#3 index) t = .next { t with readData := v } ∧
      v.toNat = (if index = 0x3#4 then data.toNat % 8 + 16 * (data.toNat / 16 % 2)
        else if index.toNat ≤ 0x7 then data.toNat % 2 ^ 32 else data.toNat)

/-! ## Presenting a command -/

/-- A write to CMD with RSV = 0 whose word has the OP of a command does what that command does. -/
def Obligations.CommandWriteIsCommand : Prop :=
  ∀ (s : State) (data : Word),
    (data.toNat % 256 = 1 → ∀ u, exec (.regWrite 0#3 0x1#4 data) s = exec (.configure u) s) ∧
    (data.toNat % 256 = 2 → ∀ u, exec (.regWrite 0#3 0x1#4 data) s = exec (.apply u) s) ∧
    (data.toNat % 256 = 3 → ∀ u, exec (.regWrite 0#3 0x1#4 data) s = exec (.invert u) s)

/-- A command word with an illegal OP, presented in IDLE, fails with ILLEGAL_CMD (code 1), and nothing else changes. -/
def Obligations.IllegalOpFailsIllegalCmd : Prop :=
  ∀ (s : State) (data : Word), s.eng.phase = .idle → data.toNat % 256 = 0 ∨ 4 ≤ data.toNat % 256 →
    exec (.regWrite 0#3 0x1#4 data) s =
      .next { s with done := false, err := true, ovr := false, errCode := 1#4 }

/-- A command word written while BUSY = 1 is dropped whatever its OP: it sets OVR, and nothing else changes. -/
def Obligations.BusyDropsEveryCommand : Prop :=
  ∀ (s : State) (u : BitVec 56) (data : Word), s.eng.phase ≠ .idle →
    exec (.configure u) s = .next { s with ovr := true } ∧
    exec (.apply u) s = .next { s with ovr := true } ∧
    exec (.invert u) s = .next { s with ovr := true } ∧
    exec (.regWrite 0#3 0x1#4 data) s = .next { s with ovr := true }

/-- An accepted command's result does not depend on the outcome of the command before it: acceptance clears DONE, ERR,
ERR_CODE and OVR, and OVR stays clear. -/
def Obligations.AcceptanceClearsOutcome : Prop :=
  ∀ (s : State) (u : BitVec 56) (data : Word) (i : Instr) (d e o : Bool) (c : BitVec 4), s.eng.phase = .idle →
    i = .configure u ∨ i = .apply u ∨ i = .invert u ∨ i = .regWrite 0#3 0x1#4 data →
    ∃ t : State, exec i s = .next t ∧ t.ovr = false ∧
      exec i { s with done := d, err := e, ovr := o, errCode := c } = .next t

/-- Every accepted command other than an APPLY that passes its checks ends in the step that accepts it, either completed or
failed; an APPLY that passes its checks leaves BUSY = 1 with no outcome yet. -/
def Obligations.AcceptedCommandsEndOnce : Prop :=
  ∀ (s : State) (u : BitVec 56) (data : Word) (i : Instr), s.eng.phase = .idle →
    i = .configure u ∨ i = .apply u ∨ i = .invert u ∨
      (i = .regWrite 0#3 0x1#4 data ∧ (data.toNat % 256 = 0 ∨ 4 ≤ data.toNat % 256)) →
    ∃ t : State, exec i s = .next t ∧
      ((t.busy = false ∧ t.done = true ∧ t.err = false ∧ t.errCode = 0#4) ∨
        (t.busy = false ∧ t.done = false ∧ t.err = true ∧ t.errCode ≠ 0#4) ∨
        (i = .apply u ∧ t.busy = true ∧ t.done = false ∧ t.err = false ∧ t.errCode = 0#4))

/-- A command that fails has no effect but its report: of the whole state only DONE, ERR, ERR_CODE and OVR (cleared at
acceptance) change. -/
def Obligations.FailedCommandOnlyReports : Prop :=
  ∀ (s t : State) (u : BitVec 56) (data : Word) (i : Instr), s.eng.phase = .idle →
    i = .configure u ∨ i = .apply u ∨ i = .invert u ∨ i = .regWrite 0#3 0x1#4 data →
    exec i s = .next t → t.err = true →
    t = { s with done := false, err := true, ovr := false, errCode := t.errCode }

/-! ## CONFIGURE -/

/-- CONFIGURE of a legal BALANCED or UNBALANCED construction loads the whole descriptor, forward, and completes; nothing else
changes. -/
def Obligations.ConfigureLoadsBitDomain : Prop :=
  ∀ (s : State) (u : BitVec 56), s.eng.phase = .idle → 0 ≤ s.rounds.toInt →
    0 ≤ s.totalBits.toInt → s.totalBits.toInt ≤ s.width.bits → s.cfgRfsel = true ∨ s.rfPresent = true →
    (s.cfgKind = 0#3 → s.totalBits.toInt % 2 = 0 →
      exec (.configure u) s =
        .next { s with
          done := true, err := false, ovr := false, errCode := 0#4
          act := { valid := true, kind := .balanced, rfsel := s.cfgRfsel, rounds := s.rounds, totalBits := s.totalBits,
                   sourceBits := s.totalBits / 2#32, targetBits := s.totalBits / 2#32, radixA := 0#64, radixB := 0#64,
                   dir := false } }) ∧
    (s.cfgKind = 1#3 → 0 ≤ s.sourceBits.toInt → 0 ≤ s.targetBits.toInt →
      s.sourceBits.toInt + s.targetBits.toInt ≤ s.totalBits.toInt →
      exec (.configure u) s =
        .next { s with
          done := true, err := false, ovr := false, errCode := 0#4
          act := { valid := true, kind := .unbalanced, rfsel := s.cfgRfsel, rounds := s.rounds, totalBits := s.totalBits,
                   sourceBits := s.sourceBits, targetBits := s.targetBits, radixA := 0#64, radixB := 0#64,
                   dir := false } })

/-- CONFIGURE of a legal FE1 or FE2 construction loads the whole descriptor, forward, and completes; nothing else changes. -/
def Obligations.ConfigureLoadsRadix : Prop :=
  ∀ (s : State) (u : BitVec 56), s.eng.phase = .idle → 0 ≤ s.rounds.toInt →
    fitsIn s.width s.radixA = true → fitsIn s.width s.radixB = true →
    0 ≤ sintW s.width s.radixA → 0 ≤ sintW s.width s.radixB →
    sintW s.width s.radixA * sintW s.width s.radixB ≤ 2 ^ (s.width.bits - 1) - 1 →
    s.cfgRfsel = true ∨ s.rfPresent = true →
    ∀ k : Kind, (s.cfgKind = 2#3 ∧ k = .fe1) ∨ (s.cfgKind = 3#3 ∧ k = .fe2) →
      exec (.configure u) s =
        .next { s with
          done := true, err := false, ovr := false, errCode := 0#4
          act := { valid := true, kind := k, rfsel := s.cfgRfsel, rounds := s.rounds, totalBits := 0#32,
                   sourceBits := 0#32, targetBits := 0#32, radixA := s.radixA, radixB := s.radixB, dir := false } }

/-- CONFIGURE reports the first failing check in R130's order, each on exact integers, and succeeds when none fails. -/
def Obligations.ConfigureReportsFirstFailure : Prop :=
  ∀ (s : State) (u : BitVec 56), s.eng.phase = .idle →
    let k := s.cfgKind.toNat
    let T := s.totalBits.toInt
    let a := sintW s.width s.radixA
    let b := sintW s.width s.radixB
    let code : Nat :=
      if 4 ≤ k then 2
      else if s.rounds.toInt < 0 then 3
      else if k ≤ 1 ∧ (T < 0 ∨ (s.width.bits : Int) < T) then 4
      else if k = 0 ∧ T % 2 ≠ 0 then 5
      else if k = 1 ∧ (s.sourceBits.toInt < 0 ∨ s.targetBits.toInt < 0) then 6
      else if k = 1 ∧ T < s.sourceBits.toInt + s.targetBits.toInt then 7
      else if 2 ≤ k ∧ (a < 0 ∨ b < 0) then 8
      else if 2 ≤ k ∧ 2 ^ (s.width.bits - 1) - 1 < a * b then 9
      else if s.cfgRfsel = false ∧ s.rfPresent = false then 10
      else 0
    (code ≠ 0 → exec (.configure u) s =
      .next { s with done := false, err := true, ovr := false, errCode := BitVec.ofNat 4 code }) ∧
    (code = 0 → ∃ d : Descriptor, d.valid = true ∧ d.kind.code = s.cfgKind ∧ d.dir = false ∧
      exec (.configure u) s = .next { s with done := true, err := false, ovr := false, errCode := 0#4, act := d })

/-- CONFIGURE writes nothing but STATUS's outcome and the active descriptor, and reads only the operands of its kind: changing
any other staging register, X or Y changes nothing of what it does (41_range_check_configure.md R139). -/
def Obligations.ConfigureReadsOnlyItsOperands : Prop :=
  ∀ (s t : State) (u : BitVec 56) (T S TG : BitVec 32) (a b x y : Word), exec (.configure u) s = .next t →
    t = { s with done := t.done, err := t.err, ovr := t.ovr, errCode := t.errCode, act := t.act } ∧
    exec (.configure u) { s with x := x, y := y } = .next { t with x := x, y := y } ∧
    (s.cfgKind = 0#3 →
      exec (.configure u) { s with sourceBits := S, targetBits := TG, radixA := a, radixB := b } =
        .next { t with sourceBits := S, targetBits := TG, radixA := a, radixB := b }) ∧
    (s.cfgKind = 1#3 →
      exec (.configure u) { s with radixA := a, radixB := b } = .next { t with radixA := a, radixB := b }) ∧
    (s.cfgKind = 2#3 ∨ s.cfgKind = 3#3 →
      exec (.configure u) { s with totalBits := T, sourceBits := S, targetBits := TG } =
        .next { t with totalBits := T, sourceBits := S, targetBits := TG })

/-- What a 32-bit engine accepts a 64-bit engine accepts too, with the same descriptor; a 32-bit engine rejects what only a
wider word can hold. -/
def Obligations.NarrowConfigureAgreesWithWide : Prop :=
  ∀ (s t : State) (u : BitVec 56), s.width = .w32 → s.eng.phase = .idle → s.WordsFit →
    exec (.configure u) s = .next t →
    (t.done = true → exec (.configure u) { s with width := .w64 } = .next { t with width := .w64 }) ∧
    (s.cfgKind.toNat ≤ 1 → 0 ≤ s.rounds.toInt → 32 < s.totalBits.toInt → t.errCode = 4#4) ∧
    (s.cfgKind = 2#3 ∨ s.cfgKind = 3#3 → 0 ≤ s.rounds.toInt → 0 ≤ sintW .w32 s.radixA → 0 ≤ sintW .w32 s.radixB →
      2 ^ 31 - 1 < s.radixA.toNat * s.radixB.toNat → t.errCode = 9#4)

/-! ## APPLY and the engine's steps -/

/-- The domain of a legal descriptor: `[0, 2^T - 1]` for a bit-domain, `[0, A*B - 1]` for a radix domain, which is empty when A
or B is 0. -/
def Obligations.DomainBounds : Prop :=
  ∀ (w : Width) (d : Descriptor) (x : Nat), d.Legal w →
    (d.kind = .balanced ∨ d.kind = .unbalanced → d.max = 2 ^ d.totalBits.toNat - 1 ∧
      (d.inRange x = true ↔ (x : Int) ≤ d.max) ∧
      (d.inRange x = true ↔ x < 2 ^ d.totalBits.toNat) ∧ (d.inRange x = true ↔ x >>> d.totalBits.toNat = 0)) ∧
    (d.kind = .fe1 ∨ d.kind = .fe2 → d.max = d.radixA.toNat * d.radixB.toNat - 1 ∧
      (d.inRange x = true ↔ (x : Int) ≤ d.max) ∧
      (d.inRange x = true ↔ x < d.radixA.toNat * d.radixB.toNat) ∧
      (d.radixA = 0#64 ∨ d.radixB = 0#64 → d.inRange x = false) ∧
      (d.inRange x = true → x < 2 ^ (w.bits - 1)))

/-- APPLY of a value in the domain starts the round ladder: BUSY = 1, no round done, the working registers of the kind from
`init`; the outcome bits are clear and nothing else changes. -/
def Obligations.ApplyStartsLadder : Prop :=
  ∀ (s : State) (u : BitVec 56), s.eng.phase = .idle → s.act.valid = true → fitsIn s.width s.x = true →
    (s.x.toNat : Int) ≤ s.act.max →
    ∃ ws l r : Word,
      exec (.apply u) s =
        .next { s with
          done := false, err := false, ovr := false, errCode := 0#4
          eng := { s.eng with phase := .run, j := 0#32, ws := ws, l := l, r := r } } ∧
      (s.act.kind ≠ .fe2 → ws = s.x) ∧
      (s.act.kind = .fe2 → s.act.dir = false →
        l.toNat = s.x.toNat / s.act.radixB.toNat ∧ r.toNat = s.x.toNat % s.act.radixB.toNat) ∧
      (s.act.kind = .fe2 → s.act.dir = true →
        l.toNat = s.x.toNat / (if s.act.rounds.toNat % 2 = 1 then s.act.radixA.toNat else s.act.radixB.toNat) ∧
        r.toNat = s.x.toNat % (if s.act.rounds.toNat % 2 = 1 then s.act.radixA.toNat else s.act.radixB.toNat))

/-- APPLY without a descriptor fails with NOT_CONFIGURED (code 11); with one, a value outside the domain fails with DOMAIN (code
12); nothing else changes. -/
def Obligations.ApplyRejectsWithCode : Prop :=
  ∀ (s : State) (u : BitVec 56), s.eng.phase = .idle →
    (s.act.valid = false → exec (.apply u) s =
      .next { s with done := false, err := true, ovr := false, errCode := 11#4 }) ∧
    (s.act.valid = true → s.act.max < (s.x.toNat : Int) → exec (.apply u) s =
      .next { s with done := false, err := true, ovr := false, errCode := 12#4 })

/-- In RUN with a round left and an external round function, the engine's step sends the request of the round and waits
(42_round_function_apply.md R161, R162). -/
def Obligations.RunStepSendsRequest : Prop :=
  ∀ (s : State) (later : List Event), s.agenda = .engine :: later → s.Inv → s.eng.phase = .run →
    s.eng.j ≠ s.act.rounds → s.act.rfsel = false →
    ∃ i : BitVec 32, ∃ v : Word,
      step s =
        .next { s with
          agenda := later
          eng := { s.eng with phase := .wait, i := i, reqValid := true, reqRound := i, reqValue := v } } ∧
      i.toNat = (if s.act.dir = false then s.eng.j.toNat else s.act.rounds.toNat - 1 - s.eng.j.toNat) ∧
      v.toNat = s.act.arg i.toNat s.eng.work

/-- In RUN with a round left and the built-in identity, the engine's step does the round with its own argument as the
response, without port activity (42_round_function_apply.md R154). -/
def Obligations.RunStepBuiltinRound : Prop :=
  ∀ (s : State) (later : List Event), s.agenda = .engine :: later → s.Inv → s.eng.phase = .run →
    s.eng.j ≠ s.act.rounds → s.act.rfsel = true →
    ∃ (i : BitVec 32) (ws l r : Word),
      step s =
        .next { s with
          agenda := later
          eng := { s.eng with i := i, j := s.eng.j + 1#32, ws := ws, l := l, r := r } } ∧
      i.toNat = (if s.act.dir = false then s.eng.j.toNat else s.act.rounds.toNat - 1 - s.eng.j.toNat) ∧
      ∃ F : Int, F = sintW s.width (BitVec.ofNat 64 (s.act.arg i.toNat s.eng.work)) ∧
        (s.act.kind = .fe1 ∨ s.act.kind = .fe2 →
          s.act.arg i.toNat s.eng.work < 2 ^ (s.width.bits - 1) ∧ F = s.act.arg i.toNat s.eng.work) ∧
        s.act.SameWork { ws := ws.toNat, l := l.toNat, r := r.toNat } (s.act.upd i.toNat s.eng.work F)

/-- In WAIT the engine takes an offered response: the request is withdrawn, the round ends with the response read as a W-bit
two's-complement integer, and the engine runs on (42_round_function_apply.md R163); that offering a response and taking it are
one event is the model's inference (log 7). R163 gives the engine no step there without a response; that the model takes such
an engine event and leaves the state as it is, is the model's choice (log 4). -/
def Obligations.WaitTakesResponse : Prop :=
  (∀ (s : State) (data : Word) (later : List Event), s.agenda = .response data :: later → s.Inv →
    s.eng.phase = .wait →
    ∃ ws l r : Word,
      step s =
        .next { s with
          agenda := later
          eng := { s.eng with phase := .run, reqValid := false, j := s.eng.j + 1#32, ws := ws, l := l, r := r } } ∧
      s.act.SameWork { ws := ws.toNat, l := l.toNat, r := r.toNat }
        (s.act.upd s.eng.i.toNat s.eng.work (sintW s.width data))) ∧
  (∀ (s : State) (later : List Event), s.agenda = .engine :: later → s.eng.phase = .wait →
    step s = .next { s with agenda := later })

/-- A response offered while no request is outstanding is ignored (42_round_function_apply.md R152; the event is log 7's). -/
def Obligations.UnaskedResponseIgnored : Prop :=
  ∀ (s : State) (data : Word) (later : List Event), s.agenda = .response data :: later → s.eng.phase ≠ .wait →
    step s = .next { s with agenda := later }

/-- Without a response the engine stays in WAIT for any number of its own steps: the hang. -/
def Obligations.UnansweredRequestHangs : Prop :=
  ∀ (s : State) (n : Nat), s.eng.phase = .wait →
    (s.agenda = [] → core.run n s = .next s) ∧
    core.run n { s with agenda := List.replicate n .engine } = .next { s with agenda := [] }

/-- No timeout and no cancellation (42_round_function_apply.md R156): without a response the engine stays in WAIT with BUSY = 1
until reset. No command is accepted meanwhile: nothing of the engine, the descriptor, Y or the outcome changes. -/
def Obligations.OnlyResponseOrResetLeavesWait : Prop :=
  ∀ s t : State, s.eng.phase = .wait → step s = .next t →
    (t.eng = s.eng ∧ t.busy = true ∧ t.act = s.act ∧ t.y = s.y ∧ t.done = s.done ∧ t.err = s.err ∧
      t.errCode = s.errCode) ∨ (∃ data later, s.agenda = .response data :: later) ∨
      (∃ later, s.agenda = .reset :: later)

/-- In RUN with every round done, the engine's step completes the APPLY: Y takes `fin` of the working registers, which is
`ENG.WS` or, for FE2, `s_fin * L + R` forward and `b * L + R` in reverse (44_numeric.md R219 to R221); the result lies in the
domain, BUSY is cleared and DONE set, all in one step (42_round_function_apply.md R166, R167). -/
def Obligations.CompletingStepWritesY : Prop :=
  ∀ (s : State) (later : List Event), s.agenda = .engine :: later → s.Inv → s.eng.phase = .run →
    s.eng.j = s.act.rounds →
    ∃ v : Word,
      step s =
        .next { s with
          agenda := later, y := v, done := true, err := false, errCode := 0#4
          eng := { s.eng with phase := .idle } } ∧
      v.toNat = s.act.fin s.eng.work ∧ (v.toNat : Int) ≤ s.act.max ∧
      (s.act.kind ≠ .fe2 → v = s.eng.ws) ∧
      (s.act.kind = .fe2 → s.act.dir = false →
        v.toNat =
          (if s.act.rounds.toNat % 2 = 1 then s.act.radixA.toNat else s.act.radixB.toNat) * s.eng.l.toNat +
            s.eng.r.toNat) ∧
      (s.act.kind = .fe2 → s.act.dir = true → v.toNat = s.act.radixB.toNat * s.eng.l.toNat + s.eng.r.toNat)

/-! ## INVERT -/

/-- INVERT toggles the direction of the active descriptor, changes no other field of it, and completes; without a descriptor it
fails with NOT_CONFIGURED (code 11). -/
def Obligations.InvertTogglesDirection : Prop :=
  ∀ (s : State) (u : BitVec 56), s.eng.phase = .idle →
    (s.act.valid = true → exec (.invert u) s =
      .next { s with
        done := true, err := false, ovr := false, errCode := 0#4, act := { s.act with dir := !s.act.dir } }) ∧
    (s.act.valid = false → exec (.invert u) s =
      .next { s with done := false, err := true, ovr := false, errCode := 11#4 })

/-- Two successful INVERTs in a row leave the active descriptor exactly as it was. -/
def Obligations.InvertTwiceRestoresDescriptor : Prop :=
  ∀ (s t t' : State) (u u' : BitVec 56), exec (.invert u) s = .next t → t.done = true → s.eng.phase = .idle →
    exec (.invert u') t = .next t' → t'.done = true ∧ t'.act = s.act

/-! ## What the whole machine keeps -/

/-- The reset state meets the invariant, whatever the parameters. -/
def Obligations.InvariantAtReset : Prop :=
  (∀ (w : Width) (p : Bool), (State.resetWith w p).Inv) ∧ State.reset.Inv

/-- Every step of every agent keeps the invariant. -/
def Obligations.InvariantKeptByStep : Prop := ∀ s t : State, s.Inv → step s = .next t → t.Inv

/-- The active descriptor changes only by a CONFIGURE, by an INVERT, which changes DIR alone, or by reset; a CONFIGURE's
descriptor is valid and forward, so VALID is cleared by reset alone. -/
def Obligations.DescriptorChangedOnlyByConfigureInvertReset : Prop :=
  ∀ s t : State, step s = .next t →
    t.act = s.act ∨
    (∃ tx later u, s.agenda = .host tx :: later ∧ decode s.width tx = .configure u ∧ t.act.valid = true ∧
      t.act.dir = false ∧ t.done = true) ∨
    (∃ tx later u, s.agenda = .host tx :: later ∧ decode s.width tx = .invert u ∧
      t.act = { s.act with dir := !s.act.dir } ∧ t.done = true) ∨
    (∃ later, s.agenda = .reset :: later ∧ t.act = .reset)

/-- Y changes only by the completing step of an APPLY or by reset; no host transaction changes it. -/
def Obligations.ResultChangedOnlyByCompletion : Prop :=
  ∀ s t : State, step s = .next t → t.y ≠ s.y →
    ((s.agenda = [] ∨ ∃ later, s.agenda = .engine :: later) ∧
      s.eng.phase = .run ∧ s.eng.j = s.act.rounds ∧ t.eng.phase = .idle ∧ t.done = true) ∨
    (∃ later, s.agenda = .reset :: later)

/-- A staging register or X changes only by a host REG_WRITE or by reset. -/
def Obligations.StagingChangedOnlyByRegWrite : Prop :=
  ∀ s t : State, step s = .next t →
    (t.cfgKind = s.cfgKind ∧ t.cfgRfsel = s.cfgRfsel ∧ t.rounds = s.rounds ∧ t.totalBits = s.totalBits ∧
      t.sourceBits = s.sourceBits ∧ t.targetBits = s.targetBits ∧ t.radixA = s.radixA ∧ t.radixB = s.radixB ∧
      t.x = s.x) ∨
    (∃ tx later index data, s.agenda = .host tx :: later ∧ decode s.width tx = .regWrite 0#3 index data ∧
      3 ≤ index.toNat ∧ index.toNat ≤ 0xA ∧ t.act = s.act ∧ t.eng = s.eng ∧ t.y = s.y ∧
      t.statusWord = s.statusWord) ∨
    (∃ later, s.agenda = .reset :: later)

/-- No step changes the width W, and only the platform changes rf_present. -/
def Obligations.ParametersKeptByStep : Prop :=
  ∀ s t : State, step s = .next t →
    t.width = s.width ∧
    (t.rfPresent = s.rfPresent ∨
      ∃ level later, s.agenda = .rfPresent level :: later ∧ t = { s with agenda := later, rfPresent := level })

/-! ## The rounds as mathematics -/

/-- A forward bit-domain round on the fields A, N, B: B goes to the round function and to the top, N to the middle, and A with
the low p bits of the response XORed in to the bottom. The machine's `arg` and `upd` for BALANCED and UNBALANCED forward are
that round with n = T - S - TG, (p, q) = (S, TG) for an even round index and (TG, S) for an odd one (43_bit_domain.md R180,
R181, R185). -/
def Obligations.ForwardBitRoundMovesFields : Prop :=
  (∀ (p n q A N B : Nat) (F : Int), A < 2 ^ p → N < 2 ^ n → B < 2 ^ q →
    bitArgForward q (A * 2 ^ (n + q) + N * 2 ^ q + B) = B ∧
    bitUpdForward p n q (A * 2 ^ (n + q) + N * 2 ^ q + B) F =
      B * 2 ^ (n + p) + N * 2 ^ p + (A ^^^ (F % 2 ^ p).toNat)) ∧
  (∀ (d : Descriptor) (st : Work) (i A N B : Nat) (F : Int), d.kind = .balanced ∨ d.kind = .unbalanced → d.dir = false →
    let p := if i % 2 = 0 then d.sourceBits.toNat else d.targetBits.toNat
    let q := if i % 2 = 0 then d.targetBits.toNat else d.sourceBits.toNat
    let n := d.totalBits.toNat - d.sourceBits.toNat - d.targetBits.toNat
    A < 2 ^ p → N < 2 ^ n → B < 2 ^ q → st.ws = A * 2 ^ (n + q) + N * 2 ^ q + B →
    d.arg i st = B ∧ (d.upd i st F).ws = B * 2 ^ (n + p) + N * 2 ^ p + (A ^^^ (F % 2 ^ p).toNat))

/-- A reverse bit-domain round on the fields B, N, C of a value that a forward round of the same widths made: B goes to the
round function and to the bottom, N to the middle, and C with the low p bits of the response XORed out to the top. The
machine's `arg` and `upd` for BALANCED and UNBALANCED in reverse are that round, with the widths of the forward round of the
same index (43_bit_domain.md R181, R183, R186). -/
def Obligations.ReverseBitRoundMovesFields : Prop :=
  (∀ (p n q B N C : Nat) (F : Int), B < 2 ^ q → N < 2 ^ n → C < 2 ^ p →
    bitArgReverse p n (B * 2 ^ (n + p) + N * 2 ^ p + C) = B ∧
    bitUpdReverse p n q (B * 2 ^ (n + p) + N * 2 ^ p + C) F =
      (C ^^^ (F % 2 ^ p).toNat) * 2 ^ (n + q) + N * 2 ^ q + B) ∧
  (∀ (d : Descriptor) (st : Work) (i B N C : Nat) (F : Int), d.kind = .balanced ∨ d.kind = .unbalanced → d.dir = true →
    let p := if i % 2 = 0 then d.sourceBits.toNat else d.targetBits.toNat
    let q := if i % 2 = 0 then d.targetBits.toNat else d.sourceBits.toNat
    let n := d.totalBits.toNat - d.sourceBits.toNat - d.targetBits.toNat
    B < 2 ^ q → N < 2 ^ n → C < 2 ^ p → st.ws = B * 2 ^ (n + p) + N * 2 ^ p + C →
    d.arg i st = B ∧ (d.upd i st F).ws = (C ^^^ (F % 2 ^ p).toNat) * 2 ^ (n + q) + N * 2 ^ q + B)

/-- For fixed widths and response, a bit-domain round of either direction is a bijection of `[0, 2^T - 1]`. -/
def Obligations.BitRoundsAreBijections : Prop :=
  ∀ (p n q : Nat) (F : Int),
    Set.BijOn (fun ws => bitUpdForward p n q ws F) (Set.Iio (2 ^ (p + n + q))) (Set.Iio (2 ^ (p + n + q))) ∧
    Set.BijOn (fun ws => bitUpdReverse p n q ws F) (Set.Iio (2 ^ (p + n + q))) (Set.Iio (2 ^ (p + n + q)))

/-- For a pure round function, the reverse round of an index undoes the forward round of that index and sends the same value,
and the other way round. -/
def Obligations.BitRoundsUndoEachOther : Prop :=
  ∀ (RF : Nat → Nat → Int) (s t T i ws : Nat), s + t ≤ T → ws < 2 ^ T →
    let p := (widths s t i).1
    let q := (widths s t i).2
    let n := nullBits T s t
    (let u := bitUpdForward p n q ws (RF i (bitArgForward q ws))
     bitArgReverse p n u = bitArgForward q ws ∧ bitUpdReverse p n q u (RF i (bitArgReverse p n u)) = ws) ∧
    (let u := bitUpdReverse p n q ws (RF i (bitArgReverse p n ws))
     bitArgForward q u = bitArgReverse p n ws ∧ bitUpdForward p n q u (RF i (bitArgForward q u)) = ws)

/-- Only the low p bits of the response count in a bit-domain round, and the value sent is below 2^q. -/
def Obligations.OnlyLowResponseBitsCount : Prop :=
  ∀ (p n q ws : Nat) (F G : Int), F % 2 ^ p = G % 2 ^ p → ws < 2 ^ (p + n + q) →
    bitUpdForward p n q ws F = bitUpdForward p n q ws G ∧ bitUpdReverse p n q ws F = bitUpdReverse p n q ws G ∧
    bitArgForward q ws < 2 ^ q ∧ bitArgReverse p n ws < 2 ^ q

/-- FE1: for `ws < a*b` and any response both updates stay below `a*b`, each is a bijection of that range, and each undoes the
other, sending the same value (44_numeric.md R214). The machine's `arg` and `upd` for FE1 are the formulas of R212 forward
and of R213 in reverse, on exact integers with floor `mod`. -/
def Obligations.Fe1RoundsUndoEachOther : Prop :=
  (∀ (RF : Nat → Nat → Int) (a b i ws : Nat) (F : Int), ws < a * b →
    fe1UpdForward a b ws F < a * b ∧ fe1UpdReverse a b ws F < a * b ∧
    Set.BijOn (fun v => fe1UpdForward a b v F) (Set.Iio (a * b)) (Set.Iio (a * b)) ∧
    Set.BijOn (fun v => fe1UpdReverse a b v F) (Set.Iio (a * b)) (Set.Iio (a * b)) ∧
    (let u := fe1UpdForward a b ws (RF i (fe1ArgForward b ws))
     fe1ArgReverse a u = fe1ArgForward b ws ∧ fe1UpdReverse a b u (RF i (fe1ArgReverse a u)) = ws) ∧
    (let u := fe1UpdReverse a b ws (RF i (fe1ArgReverse a ws))
     fe1ArgForward b u = fe1ArgReverse a ws ∧ fe1UpdForward a b u (RF i (fe1ArgForward b u)) = ws)) ∧
  (∀ (d : Descriptor) (st : Work) (i : Nat) (F : Int), d.kind = .fe1 → 0 < d.radixA.toNat → 0 < d.radixB.toNat →
    let a : Int := d.radixA.toNat
    let b : Int := d.radixB.toNat
    let ws : Int := st.ws
    (d.dir = false → (d.arg i st : Int) = ws % b ∧ ((d.upd i st F).ws : Int) = a * (ws % b) + (ws / b + F) % a) ∧
    (d.dir = true → (d.arg i st : Int) = ws / a ∧ ((d.upd i st F).ws : Int) = b * ((ws % a - F) % a) + ws / a))

/-- FE2: forward, a round of modulus s maps `[0, s) × [0, s')` to `[0, s') × [0, s)`; in reverse it maps back; each undoes the
other (44_numeric.md R222). The machine's `arg` and `upd` for FE2 are the formulas of R220 forward and of R221 in reverse,
with the modulus a for an even round index and b for an odd one (R219), on exact integers with floor `mod`. -/
def Obligations.Fe2RoundsUndoEachOther : Prop :=
  (∀ (a b i L R : Nat) (F : Int), 0 < a → 0 < b →
    (L < fe2Modulus a b i → R < fe2Modulus a b (i + 1) →
      (fe2UpdForward (fe2Modulus a b i) L R F).1 < fe2Modulus a b (i + 1) ∧
      (fe2UpdForward (fe2Modulus a b i) L R F).2 < fe2Modulus a b i ∧
      fe2UpdReverse (fe2Modulus a b i) (fe2UpdForward (fe2Modulus a b i) L R F).1
        (fe2UpdForward (fe2Modulus a b i) L R F).2 F = (L, R)) ∧
    (L < fe2Modulus a b (i + 1) → R < fe2Modulus a b i →
      (fe2UpdReverse (fe2Modulus a b i) L R F).1 < fe2Modulus a b i ∧
      (fe2UpdReverse (fe2Modulus a b i) L R F).2 < fe2Modulus a b (i + 1) ∧
      fe2UpdForward (fe2Modulus a b i) (fe2UpdReverse (fe2Modulus a b i) L R F).1
        (fe2UpdReverse (fe2Modulus a b i) L R F).2 F = (L, R))) ∧
  (∀ (d : Descriptor) (st : Work) (i : Nat) (F : Int), d.kind = .fe2 → 0 < d.radixA.toNat → 0 < d.radixB.toNat →
    let s : Int := if i % 2 = 0 then d.radixA.toNat else d.radixB.toNat
    (d.dir = false →
      d.arg i st = st.r ∧ (d.upd i st F).l = st.r ∧ ((d.upd i st F).r : Int) = ((st.l : Int) + F) % s) ∧
    (d.dir = true →
      d.arg i st = st.l ∧ ((d.upd i st F).l : Int) = ((st.r : Int) - F) % s ∧ (d.upd i st F).r = st.l))

/-- BALANCED is the special case of UNBALANCED with `s = t = T/2`, in both directions. -/
def Obligations.BalancedIsEqualSplit : Prop :=
  ∀ (w : Width) (d : Descriptor) (RF : Nat → Nat → Int) (x : Nat), d.Legal w → d.kind = .balanced →
    d.applyFn RF x = { d with kind := .unbalanced }.applyFn RF x ∧
    ({ d with kind := .unbalanced } : Descriptor).Legal w

/-- FE1 and FE2 compute the same permutation with one round, and differ with two. -/
def Obligations.Fe1AndFe2AgreeOnOneRound : Prop :=
  (∀ (w : Width) (d : Descriptor) (RF : Nat → Nat → Int) (x : Nat), d.Legal w → d.kind = .fe1 → d.dir = false →
    d.rounds = 1#32 → d.inRange x = true → d.applyFn RF x = { d with kind := .fe2 }.applyFn RF x) ∧
  (∃ (d : Descriptor) (RF : Nat → Nat → Int), d.Legal .w64 ∧ d.kind = .fe1 ∧ d.dir = false ∧ d.rounds = 2#32 ∧
    d.radixA = 3#64 ∧ d.radixB = 5#64 ∧ (∀ i v, RF i v = v * 11) ∧ d.inRange 7 = true ∧
    d.applyFn RF 7 = 10 ∧ { d with kind := .fe2 }.applyFn RF 7 = 14)

/-- A zero-round permutation of any kind and direction returns its input. -/
def Obligations.ZeroRoundsIsIdentity : Prop :=
  ∀ (w : Width) (d : Descriptor) (RF : Nat → Nat → Int) (x : Nat), d.Legal w → d.rounds = 0#32 →
    d.inRange x = true → d.applyFn RF x = x

/-- With both segments empty every round leaves the value alone, whatever the round function answers (43_bit_domain.md R190). -/
def Obligations.EmptySplitIsIdentity : Prop :=
  ∀ (w : Width) (d : Descriptor) (RF : Nat → Nat → Int) (x : Nat), d.Legal w → d.kind = .unbalanced →
    d.sourceBits = 0#32 → d.targetBits = 0#32 → d.inRange x = true →
    d.applyFn RF x = x ∧ ∀ i, d.arg i { ws := x, l := 0, r := 0 } = 0

/-- The APPLY result of a value in the domain is in the domain, whatever the round function answers. -/
def Obligations.ApplyStaysInDomain : Prop :=
  ∀ (w : Width) (d : Descriptor) (RF : Nat → Nat → Int) (x : Nat), d.Legal w → d.inRange x = true →
    d.inRange (d.applyFn RF x) = true

/-- The invertibility guarantee: for a pure round function and a legal descriptor of any kind, split, round count and
direction, the descriptor with DIR toggled undoes APPLY and is undone by it, and APPLY is a bijection of the domain. -/
def Obligations.InverseUndoesApply : Prop :=
  ∀ (w : Width) (d : Descriptor) (RF : Nat → Nat → Int), d.Legal w →
    (∀ x, d.inRange x = true →
      d.inverse.applyFn RF (d.applyFn RF x) = x ∧ d.applyFn RF (d.inverse.applyFn RF x) = x) ∧
    Set.BijOn (d.applyFn RF) { x | d.inRange x = true } { x | d.inRange x = true }

/-- The inverse of a composition is the composition of the inverses in the opposite order. -/
def Obligations.CompositionInvertsInOppositeOrder : Prop :=
  ∀ (w : Width) (P1 P2 : Descriptor) (RF1 RF2 : Nat → Nat → Int) (x : Nat), P1.Legal w → P2.Legal w →
    P1.inRange x = true → P2.inRange (P1.applyFn RF1 x) = true →
    P1.inverse.applyFn RF1 (P2.inverse.applyFn RF2 (P2.applyFn RF2 (P1.applyFn RF1 x))) = x

/-! ## The engine computes the mathematics -/

/-- When the engine starts an APPLY of a descriptor D and an input x, and every response it takes is RF's value, its
completing step writes exactly `apply(D, RF, x)` to Y, whatever else the agents do meanwhile and however long they take
(42_round_function_apply.md R168). With the built-in round function RF is the identity. -/
def Obligations.AnsweredApplyWritesResult : Prop :=
  ∀ (s t : State) (u : BitVec 56) (RF : Nat → Nat → Int) (es : List Event), s.Inv → s.eng.phase = .idle →
    s.act.valid = true → s.act.inRange s.x.toNat = true →
    (s.act.rfsel = true → ∀ i v, RF i v = sintW s.width (BitVec.ofNat 64 v)) →
    exec (.apply u) s = .next t → AnsweredBy RF es t → (runEvents es t).eng.phase = .idle →
    (runEvents es t).y.toNat = s.act.applyFn RF s.x.toNat ∧ (runEvents es t).act = s.act ∧
      (runEvents es t).done = true ∧ (runEvents es t).err = false

/-- An APPLY of k rounds issues exactly k requests of an external round function, once per round, in ascending round-index
order forward and descending in reverse, each with the value of that round, and none of the built-in one; an APPLY that
fails its checks issues none (42_round_function_apply.md R155). -/
def Obligations.ApplyRequestsEachRoundOnce : Prop :=
  ∀ (s t : State) (u : BitVec 56) (RF : Nat → Nat → Int) (es : List Event), s.Inv → s.eng.phase = .idle →
    exec (.apply u) s = .next t →
    (s.act.valid = true → s.act.inRange s.x.toNat = true →
      (s.act.rfsel = true → ∀ i v, RF i v = sintW s.width (BitVec.ofNat 64 v)) →
      AnsweredBy RF es t → (runEvents es t).eng.phase = .idle →
      requestsSent es t =
        if s.act.rfsel = true then []
        else (List.range s.act.rounds.toNat).map (fun j =>
          let i := if s.act.dir = false then j else s.act.rounds.toNat - 1 - j
          (i, s.act.arg i (s.act.roundLoop RF (s.act.init s.eng.work s.x.toNat) j)))) ∧
    (s.act.valid = false ∨ s.act.inRange s.x.toNat = false → t.eng = s.eng ∧ t.rfRequest.valid = false)

/-- An accepted APPLY whose requests a pure external round function answers at once completes after `2k + 1` steps of the
machine, with `apply(D, RF, x)` in Y. -/
def Obligations.AnsweredApplyCompletes : Prop :=
  ∀ (s t : State) (u : BitVec 56) (RF : Nat → Nat → Int), s.Inv → s.eng.phase = .idle → s.act.valid = true →
    s.act.rfsel = false → s.act.inRange s.x.toNat = true → RespondsIn s.width RF →
    exec (.apply u) s = .next t →
    let f := answeredRun RF (2 * s.act.rounds.toNat + 1) t
    f.y.toNat = s.act.applyFn RF s.x.toNat ∧ f.eng.phase = .idle ∧ f.done = true ∧ f.err = false ∧ f.act = s.act ∧
      f.x = s.x

/-- With the built-in identity an accepted APPLY completes after `k + 1` steps of the engine, and Y is the result for the
identity round function. -/
def Obligations.BuiltinApplyCompletes : Prop :=
  ∀ (s t : State) (u : BitVec 56), s.Inv → s.eng.phase = .idle → s.act.valid = true →
    s.act.rfsel = true → s.act.inRange s.x.toNat = true → exec (.apply u) s = .next t →
    let f := runEvents (List.replicate (s.act.rounds.toNat + 1) .engine) t
    f.y.toNat = s.act.applyFn (fun _ v => sintW s.width (BitVec.ofNat 64 v)) s.x.toNat ∧ f.eng.phase = .idle ∧
      f.done = true ∧ f.err = false
end

