-- ==== Sys2Proof/Laws/Bits.lean ====
section
/-! SUPPORT. What the bit-field helpers of Machine/Bits.lean compute, as facts on integers. -/

namespace Sys2Proof.Machine

theorem bits_pos (w : Width) : 0 < w.bits := by cases w <;> decide

theorem bits_le (w : Width) : w.bits ≤ 64 := by cases w <;> decide

theorem truncTo_toNat (w : Width) (v : Word) : (truncTo w v).toNat = v.toNat % 2 ^ w.bits := by
  cases w with
  | w32 =>
    have h : v.toNat % 2 ^ 32 < 2 ^ 64 := lt_trans (Nat.mod_lt _ (by norm_num)) (by norm_num)
    simpa [truncTo, Width.bits, BitVec.toNat_setWidth] using h
  | w64 => simp [truncTo, Width.bits, Nat.mod_eq_of_lt v.isLt]

theorem fitsIn_iff (w : Width) (v : Word) : fitsIn w v = true ↔ v.toNat < 2 ^ w.bits := by simp [fitsIn]

theorem truncTo_fits (w : Width) (v : Word) : fitsIn w (truncTo w v) = true := by
  rw [fitsIn_iff, truncTo_toNat]
  exact Nat.mod_lt _ (by positivity)

theorem truncTo_of_fits {w : Width} {v : Word} (h : fitsIn w v = true) : truncTo w v = v := by
  apply BitVec.eq_of_toNat_eq
  rw [truncTo_toNat, Nat.mod_eq_of_lt ((fitsIn_iff w v).1 h)]

theorem zextTo_toNat (w : Width) (n : Nat) : (zextTo w n).toNat = n % 2 ^ w.bits := by
  rw [zextTo, truncTo_toNat, BitVec.toNat_ofNat, Nat.mod_mod_of_dvd _ (pow_dvd_pow 2 (bits_le w))]

theorem zextTo_toNat_of_lt {w : Width} {n : Nat} (h : n < 2 ^ w.bits) : (zextTo w n).toNat = n := by
  rw [zextTo_toNat, Nat.mod_eq_of_lt h]

theorem zextTo_fits (w : Width) (n : Nat) : fitsIn w (zextTo w n) = true := truncTo_fits w _

theorem zextTo_toNat_self {w : Width} {v : Word} (h : fitsIn w v = true) : zextTo w v.toNat = v := by
  apply BitVec.eq_of_toNat_eq
  rw [zextTo_toNat_of_lt ((fitsIn_iff w v).1 h)]

theorem zero_fits (w : Width) : fitsIn w 0#64 = true := by cases w <;> decide

/-- The two's-complement reading of a W-bit word: below `2^(W-1)` it is the unsigned one. -/
theorem sintW_of_lt {w : Width} {v : Word} (h : v.toNat < 2 ^ (w.bits - 1)) : sintW w v = v.toNat := by
  cases w with
  | w32 =>
    simp only [Width.bits, Nat.add_one_sub_one, sintW] at *
    norm_num at h
    have h2 : (v.setWidth 32).toNat = v.toNat := by
      rw [BitVec.toNat_setWidth]; omega
    rw [BitVec.toInt_eq_toNat_cond, h2]
    split <;> omega
  | w64 =>
    simp only [Width.bits, Nat.add_one_sub_one, sintW] at *
    norm_num at h
    rw [BitVec.toInt_eq_toNat_cond]
    split <;> omega

/-- A W-bit word at or above `2^(W-1)` reads as negative. -/
theorem sintW_of_ge {w : Width} {v : Word} (hf : fitsIn w v = true) (h : 2 ^ (w.bits - 1) ≤ v.toNat) :
    sintW w v = (v.toNat : Int) - 2 ^ w.bits := by
  rw [fitsIn_iff] at hf
  cases w with
  | w32 =>
    simp only [Width.bits, Nat.add_one_sub_one, sintW] at *
    norm_num at h hf
    have h2 : (v.setWidth 32).toNat = v.toNat := by
      rw [BitVec.toNat_setWidth]; omega
    rw [BitVec.toInt_eq_toNat_cond, h2]
    split <;> omega
  | w64 =>
    simp only [Width.bits, Nat.add_one_sub_one, sintW] at *
    norm_num at h hf
    rw [BitVec.toInt_eq_toNat_cond]
    split <;> omega

/-- A non-negative operand word has the value of its pattern. -/
theorem sintW_nonneg {w : Width} {v : Word} (hf : fitsIn w v = true) (h : 0 ≤ sintW w v) :
    sintW w v = v.toNat ∧ v.toNat < 2 ^ (w.bits - 1) := by
  by_cases hlt : v.toNat < 2 ^ (w.bits - 1)
  · exact ⟨sintW_of_lt hlt, hlt⟩
  · rw [sintW_of_ge hf (not_lt.1 hlt)] at h
    have := (fitsIn_iff w v).1 hf
    exfalso
    have h3 : (v.toNat : Int) < 2 ^ w.bits := by exact_mod_cast this
    omega

/-- A response word in the signed range of W bits is read back as the integer it stands for. -/
theorem sintW_ofInt {w : Width} {F : Int} (h1 : -(2 ^ (w.bits - 1) : Int) ≤ F) (h2 : F < 2 ^ (w.bits - 1)) :
    sintW w (BitVec.ofInt 64 F) = F := by
  cases w with
  | w32 =>
    simp only [Width.bits, Nat.add_one_sub_one, sintW] at *
    norm_num at h1 h2
    have : (BitVec.ofInt 64 F).setWidth 32 = BitVec.ofInt 32 F := by
      apply BitVec.eq_of_toNat_eq
      rw [BitVec.toNat_setWidth, BitVec.toNat_ofInt, BitVec.toNat_ofInt]
      omega
    rw [this, BitVec.toInt_ofInt]
    simp only [Int.bmod]
    split <;> omega
  | w64 =>
    simp only [Width.bits, Nat.add_one_sub_one, sintW] at *
    norm_num at h1 h2
    rw [BitVec.toInt_ofInt]
    simp only [Int.bmod]
    split <;> omega

theorem lowbits_lt (F : Int) (p : Nat) : lowbits F p < 2 ^ p := by
  have h1 := Int.emod_nonneg F (b := ((2 ^ p : Nat) : Int)) (by positivity)
  have h2 := Int.emod_lt_of_pos F (b := ((2 ^ p : Nat) : Int)) (by positivity)
  unfold lowbits
  omega

theorem floorMod_lt (x : Int) {m : Nat} (h : 0 < m) : floorMod x m < m := by
  have h1 := Int.emod_nonneg x (b := (m : Int)) (by omega)
  have h2 := Int.emod_lt_of_pos x (b := (m : Int)) (by omega)
  unfold floorMod
  omega

theorem floorMod_cast (x : Int) {m : Nat} (h : 0 < m) : (floorMod x m : Int) = x % (m : Int) := by
  have h1 := Int.emod_nonneg x (b := (m : Int)) (by omega)
  unfold floorMod
  omega

/-- Adding a response and then taking it away again, both by floor `mod`, gives the residue back. -/
theorem floorMod_add_sub {l m : Nat} (F : Int) (h : l < m) : floorMod ((floorMod (l + F) m : Nat) - F) m = l := by
  have hm : 0 < m := by omega
  have hz : ((floorMod ((floorMod (l + F) m : Nat) - F) m : Nat) : Int) = (l : Int) := by
    rw [floorMod_cast _ hm, floorMod_cast _ hm]
    have h4 : ((l : Int) + F) % (m : Int) - F = (l : Int) + (m : Int) * (-(((l : Int) + F) / (m : Int))) := by
      have := Int.emod_add_mul_ediv ((l : Int) + F) (m : Int)
      linarith
    rw [h4, Int.add_mul_emod_self_left]
    exact Int.emod_eq_of_lt (by omega) (by omega)
  exact_mod_cast hz

/-- Taking a response away and then adding it again, both by floor `mod`, gives the residue back. -/
theorem floorMod_sub_add {l m : Nat} (F : Int) (h : l < m) : floorMod ((floorMod (l - F) m : Nat) + F) m = l := by
  have h3 := floorMod_add_sub (l := l) (-F) h
  simpa [sub_eq_add_neg] using h3

theorem maxs_lt (w : Width) : maxs w < 2 ^ (w.bits - 1) := by cases w <;> decide

end Sys2Proof.Machine
end

