-- ==== Sys2Proof/Laws/Decode.lean ====
section
/-! SUPPORT. The fields of a header and of a command word, put together and taken apart. -/

namespace Sys2Proof

@[simp] theorem headerWr_read (rsv : BitVec 3) (index : BitVec 4) : headerWr (mkHeader 0#1 rsv index) = false := by
  revert rsv index; decide

@[simp] theorem headerWr_write (rsv : BitVec 3) (index : BitVec 4) : headerWr (mkHeader 1#1 rsv index) = true := by
  revert rsv index; decide

@[simp] theorem headerRsv_mkHeader (wr : BitVec 1) (rsv : BitVec 3) (index : BitVec 4) :
    headerRsv (mkHeader wr rsv index) = rsv := by
  revert wr rsv index; decide

@[simp] theorem headerIndex_mkHeader (wr : BitVec 1) (rsv : BitVec 3) (index : BitVec 4) :
    headerIndex (mkHeader wr rsv index) = index := by
  revert wr rsv index; decide

/-- A header is put together from the fields it is taken apart into. -/
theorem mkHeader_fields (h : BitVec 8) :
    mkHeader (BitVec.ofBool (headerWr h)) (headerRsv h) (headerIndex h) = h := by
  revert h; decide

@[simp] theorem opOf_cmdWord (upper : BitVec 56) (op : BitVec 8) : opOf (cmdWord upper op) = op := by
  apply BitVec.eq_of_toNat_eq
  simp only [opOf, cmdWord, BitVec.extractLsb'_toNat, BitVec.toNat_append, Nat.shiftRight_zero]
  have := op.isLt
  rw [← Nat.shiftLeft_add_eq_or_of_lt this, Nat.shiftLeft_eq]
  omega

@[simp] theorem upper_cmdWord (upper : BitVec 56) (op : BitVec 8) : (cmdWord upper op).extractLsb' 8 56 = upper := by
  apply BitVec.eq_of_toNat_eq
  simp only [cmdWord, BitVec.extractLsb'_toNat, BitVec.toNat_append]
  have := op.isLt
  have := upper.isLt
  rw [← Nat.shiftLeft_add_eq_or_of_lt (by assumption), Nat.shiftLeft_eq, Nat.shiftRight_eq_div_pow]
  omega

theorem cmdWord_toNat (upper : BitVec 56) (op : BitVec 8) :
    (cmdWord upper op).toNat = upper.toNat * 2 ^ 8 + op.toNat := by
  simp only [cmdWord, BitVec.toNat_append]
  rw [← Nat.shiftLeft_add_eq_or_of_lt op.isLt, Nat.shiftLeft_eq]

/-- A command word is put together from its ignored part and its OP. -/
theorem cmdWord_fields (data : Word) : cmdWord (data.extractLsb' 8 56) (opOf data) = data := by
  apply BitVec.eq_of_toNat_eq
  rw [cmdWord_toNat]
  simp only [opOf, BitVec.extractLsb'_toNat, Nat.shiftRight_eq_div_pow]
  have := data.isLt
  omega

/-- A command word fits the port exactly when its ignored part does. -/
theorem fitsIn_cmdWord (w : Width) (upper : BitVec 56) (op : BitVec 8) :
    Machine.fitsIn w (cmdWord upper op) = upperFits w upper := by
  have := op.isLt
  have hu : upperFits w upper = true ↔ upper.toNat < 2 ^ (w.bits - 8) := by simp [upperFits]
  rw [Bool.eq_iff_iff, Machine.fitsIn_iff, cmdWord_toNat, hu]
  cases w <;> simp only [Width.bits] <;> omega

end Sys2Proof
end

