-- ==== Sys2Proof/Laws/State.lean ====
section
/-! SUPPORT. One lemma per field per update of State, each true by rfl: what accept, setError, setDone, goIdle, fail, complete,
setWork, endRound and sendRequest leave in every field. Later proofs use these by simp and unfold no record update. -/

namespace Sys2Proof.Machine

section accept_fields
variable (s : State)

@[simp] theorem accept_width : (accept s).width = s.width := rfl
@[simp] theorem accept_rfPresent : (accept s).rfPresent = s.rfPresent := rfl
@[simp] theorem accept_done : (accept s).done = false := rfl
@[simp] theorem accept_err : (accept s).err = false := rfl
@[simp] theorem accept_ovr : (accept s).ovr = false := rfl
@[simp] theorem accept_errCode : (accept s).errCode = 0#4 := rfl
@[simp] theorem accept_cfgKind : (accept s).cfgKind = s.cfgKind := rfl
@[simp] theorem accept_cfgRfsel : (accept s).cfgRfsel = s.cfgRfsel := rfl
@[simp] theorem accept_rounds : (accept s).rounds = s.rounds := rfl
@[simp] theorem accept_totalBits : (accept s).totalBits = s.totalBits := rfl
@[simp] theorem accept_sourceBits : (accept s).sourceBits = s.sourceBits := rfl
@[simp] theorem accept_targetBits : (accept s).targetBits = s.targetBits := rfl
@[simp] theorem accept_radixA : (accept s).radixA = s.radixA := rfl
@[simp] theorem accept_radixB : (accept s).radixB = s.radixB := rfl
@[simp] theorem accept_x : (accept s).x = s.x := rfl
@[simp] theorem accept_y : (accept s).y = s.y := rfl
@[simp] theorem accept_act : (accept s).act = s.act := rfl
@[simp] theorem accept_eng : (accept s).eng = s.eng := rfl
@[simp] theorem accept_readData : (accept s).readData = s.readData := rfl
@[simp] theorem accept_agenda : (accept s).agenda = s.agenda := rfl

end accept_fields

section setError_fields
variable (c : ErrorCause) (s : State)

@[simp] theorem setError_width : (setError c s).width = s.width := rfl
@[simp] theorem setError_rfPresent : (setError c s).rfPresent = s.rfPresent := rfl
@[simp] theorem setError_done : (setError c s).done = false := rfl
@[simp] theorem setError_err : (setError c s).err = true := rfl
@[simp] theorem setError_ovr : (setError c s).ovr = s.ovr := rfl
@[simp] theorem setError_errCode : (setError c s).errCode = c.code := rfl
@[simp] theorem setError_cfgKind : (setError c s).cfgKind = s.cfgKind := rfl
@[simp] theorem setError_cfgRfsel : (setError c s).cfgRfsel = s.cfgRfsel := rfl
@[simp] theorem setError_rounds : (setError c s).rounds = s.rounds := rfl
@[simp] theorem setError_totalBits : (setError c s).totalBits = s.totalBits := rfl
@[simp] theorem setError_sourceBits : (setError c s).sourceBits = s.sourceBits := rfl
@[simp] theorem setError_targetBits : (setError c s).targetBits = s.targetBits := rfl
@[simp] theorem setError_radixA : (setError c s).radixA = s.radixA := rfl
@[simp] theorem setError_radixB : (setError c s).radixB = s.radixB := rfl
@[simp] theorem setError_x : (setError c s).x = s.x := rfl
@[simp] theorem setError_y : (setError c s).y = s.y := rfl
@[simp] theorem setError_act : (setError c s).act = s.act := rfl
@[simp] theorem setError_eng : (setError c s).eng = s.eng := rfl
@[simp] theorem setError_readData : (setError c s).readData = s.readData := rfl
@[simp] theorem setError_agenda : (setError c s).agenda = s.agenda := rfl

end setError_fields

section setDone_fields
variable (s : State)

@[simp] theorem setDone_width : (setDone s).width = s.width := rfl
@[simp] theorem setDone_rfPresent : (setDone s).rfPresent = s.rfPresent := rfl
@[simp] theorem setDone_done : (setDone s).done = true := rfl
@[simp] theorem setDone_err : (setDone s).err = false := rfl
@[simp] theorem setDone_ovr : (setDone s).ovr = s.ovr := rfl
@[simp] theorem setDone_errCode : (setDone s).errCode = 0#4 := rfl
@[simp] theorem setDone_cfgKind : (setDone s).cfgKind = s.cfgKind := rfl
@[simp] theorem setDone_cfgRfsel : (setDone s).cfgRfsel = s.cfgRfsel := rfl
@[simp] theorem setDone_rounds : (setDone s).rounds = s.rounds := rfl
@[simp] theorem setDone_totalBits : (setDone s).totalBits = s.totalBits := rfl
@[simp] theorem setDone_sourceBits : (setDone s).sourceBits = s.sourceBits := rfl
@[simp] theorem setDone_targetBits : (setDone s).targetBits = s.targetBits := rfl
@[simp] theorem setDone_radixA : (setDone s).radixA = s.radixA := rfl
@[simp] theorem setDone_radixB : (setDone s).radixB = s.radixB := rfl
@[simp] theorem setDone_x : (setDone s).x = s.x := rfl
@[simp] theorem setDone_y : (setDone s).y = s.y := rfl
@[simp] theorem setDone_act : (setDone s).act = s.act := rfl
@[simp] theorem setDone_eng : (setDone s).eng = s.eng := rfl
@[simp] theorem setDone_readData : (setDone s).readData = s.readData := rfl
@[simp] theorem setDone_agenda : (setDone s).agenda = s.agenda := rfl

end setDone_fields

section goIdle_fields
variable (s : State)

@[simp] theorem goIdle_width : (goIdle s).width = s.width := rfl
@[simp] theorem goIdle_rfPresent : (goIdle s).rfPresent = s.rfPresent := rfl
@[simp] theorem goIdle_done : (goIdle s).done = s.done := rfl
@[simp] theorem goIdle_err : (goIdle s).err = s.err := rfl
@[simp] theorem goIdle_ovr : (goIdle s).ovr = s.ovr := rfl
@[simp] theorem goIdle_errCode : (goIdle s).errCode = s.errCode := rfl
@[simp] theorem goIdle_cfgKind : (goIdle s).cfgKind = s.cfgKind := rfl
@[simp] theorem goIdle_cfgRfsel : (goIdle s).cfgRfsel = s.cfgRfsel := rfl
@[simp] theorem goIdle_rounds : (goIdle s).rounds = s.rounds := rfl
@[simp] theorem goIdle_totalBits : (goIdle s).totalBits = s.totalBits := rfl
@[simp] theorem goIdle_sourceBits : (goIdle s).sourceBits = s.sourceBits := rfl
@[simp] theorem goIdle_targetBits : (goIdle s).targetBits = s.targetBits := rfl
@[simp] theorem goIdle_radixA : (goIdle s).radixA = s.radixA := rfl
@[simp] theorem goIdle_radixB : (goIdle s).radixB = s.radixB := rfl
@[simp] theorem goIdle_x : (goIdle s).x = s.x := rfl
@[simp] theorem goIdle_y : (goIdle s).y = s.y := rfl
@[simp] theorem goIdle_act : (goIdle s).act = s.act := rfl
@[simp] theorem goIdle_eng_phase : (goIdle s).eng.phase = .idle := rfl
@[simp] theorem goIdle_eng_j : (goIdle s).eng.j = s.eng.j := rfl
@[simp] theorem goIdle_eng_i : (goIdle s).eng.i = s.eng.i := rfl
@[simp] theorem goIdle_eng_ws : (goIdle s).eng.ws = s.eng.ws := rfl
@[simp] theorem goIdle_eng_l : (goIdle s).eng.l = s.eng.l := rfl
@[simp] theorem goIdle_eng_r : (goIdle s).eng.r = s.eng.r := rfl
@[simp] theorem goIdle_eng_reqValid : (goIdle s).eng.reqValid = s.eng.reqValid := rfl
@[simp] theorem goIdle_eng_reqRound : (goIdle s).eng.reqRound = s.eng.reqRound := rfl
@[simp] theorem goIdle_eng_reqValue : (goIdle s).eng.reqValue = s.eng.reqValue := rfl
@[simp] theorem goIdle_readData : (goIdle s).readData = s.readData := rfl
@[simp] theorem goIdle_agenda : (goIdle s).agenda = s.agenda := rfl

end goIdle_fields

section fail_fields
variable (c : ErrorCause) (s : State)

@[simp] theorem fail_width : (fail c s).width = s.width := rfl
@[simp] theorem fail_rfPresent : (fail c s).rfPresent = s.rfPresent := rfl
@[simp] theorem fail_done : (fail c s).done = false := rfl
@[simp] theorem fail_err : (fail c s).err = true := rfl
@[simp] theorem fail_ovr : (fail c s).ovr = s.ovr := rfl
@[simp] theorem fail_errCode : (fail c s).errCode = c.code := rfl
@[simp] theorem fail_cfgKind : (fail c s).cfgKind = s.cfgKind := rfl
@[simp] theorem fail_cfgRfsel : (fail c s).cfgRfsel = s.cfgRfsel := rfl
@[simp] theorem fail_rounds : (fail c s).rounds = s.rounds := rfl
@[simp] theorem fail_totalBits : (fail c s).totalBits = s.totalBits := rfl
@[simp] theorem fail_sourceBits : (fail c s).sourceBits = s.sourceBits := rfl
@[simp] theorem fail_targetBits : (fail c s).targetBits = s.targetBits := rfl
@[simp] theorem fail_radixA : (fail c s).radixA = s.radixA := rfl
@[simp] theorem fail_radixB : (fail c s).radixB = s.radixB := rfl
@[simp] theorem fail_x : (fail c s).x = s.x := rfl
@[simp] theorem fail_y : (fail c s).y = s.y := rfl
@[simp] theorem fail_act : (fail c s).act = s.act := rfl
@[simp] theorem fail_eng_phase : (fail c s).eng.phase = .idle := rfl
@[simp] theorem fail_eng_j : (fail c s).eng.j = s.eng.j := rfl
@[simp] theorem fail_eng_i : (fail c s).eng.i = s.eng.i := rfl
@[simp] theorem fail_eng_ws : (fail c s).eng.ws = s.eng.ws := rfl
@[simp] theorem fail_eng_l : (fail c s).eng.l = s.eng.l := rfl
@[simp] theorem fail_eng_r : (fail c s).eng.r = s.eng.r := rfl
@[simp] theorem fail_eng_reqValid : (fail c s).eng.reqValid = s.eng.reqValid := rfl
@[simp] theorem fail_eng_reqRound : (fail c s).eng.reqRound = s.eng.reqRound := rfl
@[simp] theorem fail_eng_reqValue : (fail c s).eng.reqValue = s.eng.reqValue := rfl
@[simp] theorem fail_readData : (fail c s).readData = s.readData := rfl
@[simp] theorem fail_agenda : (fail c s).agenda = s.agenda := rfl

end fail_fields

section complete_fields
variable (s : State)

@[simp] theorem complete_width : (complete s).width = s.width := rfl
@[simp] theorem complete_rfPresent : (complete s).rfPresent = s.rfPresent := rfl
@[simp] theorem complete_done : (complete s).done = true := rfl
@[simp] theorem complete_err : (complete s).err = false := rfl
@[simp] theorem complete_ovr : (complete s).ovr = s.ovr := rfl
@[simp] theorem complete_errCode : (complete s).errCode = 0#4 := rfl
@[simp] theorem complete_cfgKind : (complete s).cfgKind = s.cfgKind := rfl
@[simp] theorem complete_cfgRfsel : (complete s).cfgRfsel = s.cfgRfsel := rfl
@[simp] theorem complete_rounds : (complete s).rounds = s.rounds := rfl
@[simp] theorem complete_totalBits : (complete s).totalBits = s.totalBits := rfl
@[simp] theorem complete_sourceBits : (complete s).sourceBits = s.sourceBits := rfl
@[simp] theorem complete_targetBits : (complete s).targetBits = s.targetBits := rfl
@[simp] theorem complete_radixA : (complete s).radixA = s.radixA := rfl
@[simp] theorem complete_radixB : (complete s).radixB = s.radixB := rfl
@[simp] theorem complete_x : (complete s).x = s.x := rfl
@[simp] theorem complete_y : (complete s).y = s.y := rfl
@[simp] theorem complete_act : (complete s).act = s.act := rfl
@[simp] theorem complete_eng_phase : (complete s).eng.phase = .idle := rfl
@[simp] theorem complete_eng_j : (complete s).eng.j = s.eng.j := rfl
@[simp] theorem complete_eng_i : (complete s).eng.i = s.eng.i := rfl
@[simp] theorem complete_eng_ws : (complete s).eng.ws = s.eng.ws := rfl
@[simp] theorem complete_eng_l : (complete s).eng.l = s.eng.l := rfl
@[simp] theorem complete_eng_r : (complete s).eng.r = s.eng.r := rfl
@[simp] theorem complete_eng_reqValid : (complete s).eng.reqValid = s.eng.reqValid := rfl
@[simp] theorem complete_eng_reqRound : (complete s).eng.reqRound = s.eng.reqRound := rfl
@[simp] theorem complete_eng_reqValue : (complete s).eng.reqValue = s.eng.reqValue := rfl
@[simp] theorem complete_readData : (complete s).readData = s.readData := rfl
@[simp] theorem complete_agenda : (complete s).agenda = s.agenda := rfl

end complete_fields

section setWork_fields
variable (st : Work) (s : State)

@[simp] theorem setWork_width : (s.setWork st).width = s.width := rfl
@[simp] theorem setWork_rfPresent : (s.setWork st).rfPresent = s.rfPresent := rfl
@[simp] theorem setWork_done : (s.setWork st).done = s.done := rfl
@[simp] theorem setWork_err : (s.setWork st).err = s.err := rfl
@[simp] theorem setWork_ovr : (s.setWork st).ovr = s.ovr := rfl
@[simp] theorem setWork_errCode : (s.setWork st).errCode = s.errCode := rfl
@[simp] theorem setWork_cfgKind : (s.setWork st).cfgKind = s.cfgKind := rfl
@[simp] theorem setWork_cfgRfsel : (s.setWork st).cfgRfsel = s.cfgRfsel := rfl
@[simp] theorem setWork_rounds : (s.setWork st).rounds = s.rounds := rfl
@[simp] theorem setWork_totalBits : (s.setWork st).totalBits = s.totalBits := rfl
@[simp] theorem setWork_sourceBits : (s.setWork st).sourceBits = s.sourceBits := rfl
@[simp] theorem setWork_targetBits : (s.setWork st).targetBits = s.targetBits := rfl
@[simp] theorem setWork_radixA : (s.setWork st).radixA = s.radixA := rfl
@[simp] theorem setWork_radixB : (s.setWork st).radixB = s.radixB := rfl
@[simp] theorem setWork_x : (s.setWork st).x = s.x := rfl
@[simp] theorem setWork_y : (s.setWork st).y = s.y := rfl
@[simp] theorem setWork_act : (s.setWork st).act = s.act := rfl
@[simp] theorem setWork_eng_phase : (s.setWork st).eng.phase = s.eng.phase := rfl
@[simp] theorem setWork_eng_j : (s.setWork st).eng.j = s.eng.j := rfl
@[simp] theorem setWork_eng_i : (s.setWork st).eng.i = s.eng.i := rfl
@[simp] theorem setWork_eng_ws : (s.setWork st).eng.ws = zextTo s.width st.ws := rfl
@[simp] theorem setWork_eng_l : (s.setWork st).eng.l = zextTo s.width st.l := rfl
@[simp] theorem setWork_eng_r : (s.setWork st).eng.r = zextTo s.width st.r := rfl
@[simp] theorem setWork_eng_reqValid : (s.setWork st).eng.reqValid = s.eng.reqValid := rfl
@[simp] theorem setWork_eng_reqRound : (s.setWork st).eng.reqRound = s.eng.reqRound := rfl
@[simp] theorem setWork_eng_reqValue : (s.setWork st).eng.reqValue = s.eng.reqValue := rfl
@[simp] theorem setWork_readData : (s.setWork st).readData = s.readData := rfl
@[simp] theorem setWork_agenda : (s.setWork st).agenda = s.agenda := rfl

end setWork_fields

section endRound_fields
variable (F : Int) (s : State)

@[simp] theorem endRound_width : (endRound F s).width = s.width := rfl
@[simp] theorem endRound_rfPresent : (endRound F s).rfPresent = s.rfPresent := rfl
@[simp] theorem endRound_done : (endRound F s).done = s.done := rfl
@[simp] theorem endRound_err : (endRound F s).err = s.err := rfl
@[simp] theorem endRound_ovr : (endRound F s).ovr = s.ovr := rfl
@[simp] theorem endRound_errCode : (endRound F s).errCode = s.errCode := rfl
@[simp] theorem endRound_cfgKind : (endRound F s).cfgKind = s.cfgKind := rfl
@[simp] theorem endRound_cfgRfsel : (endRound F s).cfgRfsel = s.cfgRfsel := rfl
@[simp] theorem endRound_rounds : (endRound F s).rounds = s.rounds := rfl
@[simp] theorem endRound_totalBits : (endRound F s).totalBits = s.totalBits := rfl
@[simp] theorem endRound_sourceBits : (endRound F s).sourceBits = s.sourceBits := rfl
@[simp] theorem endRound_targetBits : (endRound F s).targetBits = s.targetBits := rfl
@[simp] theorem endRound_radixA : (endRound F s).radixA = s.radixA := rfl
@[simp] theorem endRound_radixB : (endRound F s).radixB = s.radixB := rfl
@[simp] theorem endRound_x : (endRound F s).x = s.x := rfl
@[simp] theorem endRound_y : (endRound F s).y = s.y := rfl
@[simp] theorem endRound_act : (endRound F s).act = s.act := rfl
@[simp] theorem endRound_eng_phase : (endRound F s).eng.phase = s.eng.phase := rfl
@[simp] theorem endRound_eng_j : (endRound F s).eng.j = s.eng.j + 1#32 := rfl
@[simp] theorem endRound_eng_i : (endRound F s).eng.i = s.eng.i := rfl
@[simp] theorem endRound_eng_ws : (endRound F s).eng.ws = zextTo s.width (s.act.upd s.eng.i.toNat s.eng.work F).ws := rfl
@[simp] theorem endRound_eng_l : (endRound F s).eng.l = zextTo s.width (s.act.upd s.eng.i.toNat s.eng.work F).l := rfl
@[simp] theorem endRound_eng_r : (endRound F s).eng.r = zextTo s.width (s.act.upd s.eng.i.toNat s.eng.work F).r := rfl
@[simp] theorem endRound_eng_reqValid : (endRound F s).eng.reqValid = s.eng.reqValid := rfl
@[simp] theorem endRound_eng_reqRound : (endRound F s).eng.reqRound = s.eng.reqRound := rfl
@[simp] theorem endRound_eng_reqValue : (endRound F s).eng.reqValue = s.eng.reqValue := rfl
@[simp] theorem endRound_readData : (endRound F s).readData = s.readData := rfl
@[simp] theorem endRound_agenda : (endRound F s).agenda = s.agenda := rfl

end endRound_fields

section sendRequest_fields
variable (v : Nat) (s : State)

@[simp] theorem sendRequest_width : (sendRequest v s).width = s.width := rfl
@[simp] theorem sendRequest_rfPresent : (sendRequest v s).rfPresent = s.rfPresent := rfl
@[simp] theorem sendRequest_done : (sendRequest v s).done = s.done := rfl
@[simp] theorem sendRequest_err : (sendRequest v s).err = s.err := rfl
@[simp] theorem sendRequest_ovr : (sendRequest v s).ovr = s.ovr := rfl
@[simp] theorem sendRequest_errCode : (sendRequest v s).errCode = s.errCode := rfl
@[simp] theorem sendRequest_cfgKind : (sendRequest v s).cfgKind = s.cfgKind := rfl
@[simp] theorem sendRequest_cfgRfsel : (sendRequest v s).cfgRfsel = s.cfgRfsel := rfl
@[simp] theorem sendRequest_rounds : (sendRequest v s).rounds = s.rounds := rfl
@[simp] theorem sendRequest_totalBits : (sendRequest v s).totalBits = s.totalBits := rfl
@[simp] theorem sendRequest_sourceBits : (sendRequest v s).sourceBits = s.sourceBits := rfl
@[simp] theorem sendRequest_targetBits : (sendRequest v s).targetBits = s.targetBits := rfl
@[simp] theorem sendRequest_radixA : (sendRequest v s).radixA = s.radixA := rfl
@[simp] theorem sendRequest_radixB : (sendRequest v s).radixB = s.radixB := rfl
@[simp] theorem sendRequest_x : (sendRequest v s).x = s.x := rfl
@[simp] theorem sendRequest_y : (sendRequest v s).y = s.y := rfl
@[simp] theorem sendRequest_act : (sendRequest v s).act = s.act := rfl
@[simp] theorem sendRequest_eng_phase : (sendRequest v s).eng.phase = .wait := rfl
@[simp] theorem sendRequest_eng_j : (sendRequest v s).eng.j = s.eng.j := rfl
@[simp] theorem sendRequest_eng_i : (sendRequest v s).eng.i = s.eng.i := rfl
@[simp] theorem sendRequest_eng_ws : (sendRequest v s).eng.ws = s.eng.ws := rfl
@[simp] theorem sendRequest_eng_l : (sendRequest v s).eng.l = s.eng.l := rfl
@[simp] theorem sendRequest_eng_r : (sendRequest v s).eng.r = s.eng.r := rfl
@[simp] theorem sendRequest_eng_reqValid : (sendRequest v s).eng.reqValid = true := rfl
@[simp] theorem sendRequest_eng_reqRound : (sendRequest v s).eng.reqRound = s.eng.i := rfl
@[simp] theorem sendRequest_eng_reqValue : (sendRequest v s).eng.reqValue = zextTo s.width v := rfl
@[simp] theorem sendRequest_readData : (sendRequest v s).readData = s.readData := rfl
@[simp] theorem sendRequest_agenda : (sendRequest v s).agenda = s.agenda := rfl

end sendRequest_fields

@[simp] theorem accept_busy (s : State) : (accept s).busy = s.busy := rfl

@[simp] theorem work_ws (e : Engine) : e.work.ws = e.ws.toNat := rfl
@[simp] theorem work_l (e : Engine) : e.work.l = e.l.toNat := rfl
@[simp] theorem work_r (e : Engine) : e.work.r = e.r.toNat := rfl

@[simp] theorem inverse_valid (d : Descriptor) : d.inverse.valid = d.valid := rfl
@[simp] theorem inverse_kind (d : Descriptor) : d.inverse.kind = d.kind := rfl
@[simp] theorem inverse_rfsel (d : Descriptor) : d.inverse.rfsel = d.rfsel := rfl
@[simp] theorem inverse_rounds (d : Descriptor) : d.inverse.rounds = d.rounds := rfl
@[simp] theorem inverse_totalBits (d : Descriptor) : d.inverse.totalBits = d.totalBits := rfl
@[simp] theorem inverse_sourceBits (d : Descriptor) : d.inverse.sourceBits = d.sourceBits := rfl
@[simp] theorem inverse_targetBits (d : Descriptor) : d.inverse.targetBits = d.targetBits := rfl
@[simp] theorem inverse_radixA (d : Descriptor) : d.inverse.radixA = d.radixA := rfl
@[simp] theorem inverse_radixB (d : Descriptor) : d.inverse.radixB = d.radixB := rfl
@[simp] theorem inverse_dir (d : Descriptor) : d.inverse.dir = !d.dir := rfl
@[simp] theorem inverse_max (d : Descriptor) : d.inverse.max = d.max := rfl
@[simp] theorem inverse_widths (d : Descriptor) (i : Nat) : d.inverse.widths i = d.widths i := rfl
@[simp] theorem inverse_null (d : Descriptor) : d.inverse.null = d.null := rfl
@[simp] theorem inverse_modulus (d : Descriptor) (i : Nat) : d.inverse.modulus i = d.modulus i := rfl
@[simp] theorem inverse_finalModulus (d : Descriptor) : d.inverse.finalModulus = d.finalModulus := rfl
@[simp] theorem inverse_inRange (d : Descriptor) (x : Nat) : d.inverse.inRange x = d.inRange x := rfl

end Sys2Proof.Machine
end

