-- ==== Sys2Proof/Laws/Ops.lean ====
section
/-! SUPPORT. What each shared operation of the machine can do, said once: the acceptance of a command, a store, the engine's
step, the taking of a response, the checks of CONFIGURE, and one step of the machine. -/

namespace Sys2Proof.Machine

theorem busy_eq_false {s : State} (h : s.eng.phase = .idle) : s.busy = false := by simp [State.busy, h]

theorem busy_eq_true {s : State} (h : s.eng.phase ≠ .idle) : s.busy = true := by simp [State.busy, h]

theorem busy_iff (s : State) : s.busy = true ↔ s.eng.phase ≠ .idle := by simp [State.busy]

/-- A command that arrives while an APPLY is executing is dropped. -/
theorem whenIdle_of_busy {s : State} (c : State → State) (h : s.busy = true) :
    whenIdle c s = { s with ovr := true } := by simp [whenIdle, h]

/-- A command that arrives in IDLE is accepted and carried out. -/
theorem whenIdle_of_idle {s : State} (c : State → State) (h : s.eng.phase = .idle) :
    whenIdle c s = c (accept s) := by simp [whenIdle, busy_eq_false h]

theorem goIdle_of_idle {s : State} (h : s.eng.phase = .idle) : goIdle s = s := by
  cases s; simp only [goIdle] at *; rename_i e _ _; cases e; simp_all

theorem fail_of_idle {s : State} (c : ErrorCause) (h : s.eng.phase = .idle) :
    fail c s = { s with done := false, err := true, errCode := c.code } := by
  rw [fail, goIdle_of_idle]
  · rfl
  · simpa using h

theorem complete_of_idle {s : State} (h : s.eng.phase = .idle) :
    complete s = { s with done := true, err := false, errCode := 0#4 } := by
  rw [complete, goIdle_of_idle]
  · rfl
  · simpa using h

/-- Staging a register changes none of the engine's own state, the outcome, Y, the parameters or the agents' steps. -/
theorem stageReg_frame (r : RegName) (data : Word) (s : State) :
    (stageReg r data s).act = s.act ∧ (stageReg r data s).eng = s.eng ∧ (stageReg r data s).y = s.y ∧
    (stageReg r data s).done = s.done ∧ (stageReg r data s).err = s.err ∧ (stageReg r data s).ovr = s.ovr ∧
    (stageReg r data s).errCode = s.errCode ∧ (stageReg r data s).width = s.width ∧
    (stageReg r data s).rfPresent = s.rfPresent ∧ (stageReg r data s).readData = s.readData ∧
    (stageReg r data s).agenda = s.agenda := by
  cases r <;> exact ⟨rfl, rfl, rfl, rfl, rfl, rfl, rfl, rfl, rfl, rfl, rfl⟩

theorem engineStep_of_idle {s : State} (h : s.eng.phase = .idle) : engineStep s = s := by simp [engineStep, h]

theorem engineStep_of_wait {s : State} (h : s.eng.phase = .wait) : engineStep s = s := by simp [engineStep, h]

/-- In RUN with every round done, the engine completes. -/
theorem engineStep_finish {s : State} (h : s.eng.phase = .run) (hj : s.eng.j = s.act.rounds) :
    engineStep s = finish s := by simp [engineStep, h, hj]

/-- In RUN with a round left, the engine starts it. -/
theorem engineStep_start {s : State} (h : s.eng.phase = .run) (hj : s.eng.j ≠ s.act.rounds) :
    engineStep s = startRound s := by simp [engineStep, h, hj]

theorem takeResponse_ignored {s : State} (data : Word) (h : s.eng.phase ≠ .wait) : takeResponse data s = s := by
  cases hp : s.eng.phase <;> simp_all [takeResponse]

/-- In WAIT the response ends the round, and the request is withdrawn. -/
theorem takeResponse_of_wait {s : State} (data : Word) (h : s.eng.phase = .wait) :
    takeResponse data s =
      { endRound (sintW s.width data) s with
        eng := { (endRound (sintW s.width data) s).eng with reqValid := false, phase := .run } } := by
  simp [takeResponse, h]

/-- The checks of a kind's operands pass only with these fields and these facts about them. -/
theorem checkDomain_ok {k : Kind} {s : State} {f : DomainFields} (h : checkDomain k s = .ok f) :
    ((k = .balanced ∧ 0 ≤ s.opTotalBits ∧ s.opTotalBits ≤ s.width.bits ∧ s.opTotalBits % 2 = 0 ∧
        f = { total := s.opTotalBits, source := s.opTotalBits / 2, target := s.opTotalBits / 2, a := 0, b := 0 }) ∨
      (k = .unbalanced ∧ 0 ≤ s.opTotalBits ∧ s.opTotalBits ≤ s.width.bits ∧ 0 ≤ s.opSourceBits ∧
        0 ≤ s.opTargetBits ∧ s.opSourceBits + s.opTargetBits ≤ s.opTotalBits ∧
        f = { total := s.opTotalBits, source := s.opSourceBits, target := s.opTargetBits, a := 0, b := 0 }) ∨
      ((k = .fe1 ∨ k = .fe2) ∧ 0 ≤ s.opA ∧ 0 ≤ s.opB ∧ s.opA * s.opB ≤ maxs s.width ∧
        f = { total := 0, source := 0, target := 0, a := s.opA, b := s.opB })) := by
  cases k with
  | balanced =>
    simp only [checkDomain, checkBalanced] at h
    split at h
    · cases h
    · split at h
      · cases h
      · injection h with h
        exact Or.inl ⟨rfl, by omega, by omega, by omega, h.symm⟩
  | unbalanced =>
    simp only [checkDomain, checkUnbalanced] at h
    split at h
    · cases h
    · split at h
      · cases h
      · split at h
        · cases h
        · injection h with h
          exact Or.inr (Or.inl ⟨rfl, by omega, by omega, by omega, by omega, by omega, h.symm⟩)
  | fe1 =>
    simp only [checkDomain, checkRadix] at h
    split at h
    · cases h
    · split at h
      · cases h
      · injection h with h
        exact Or.inr (Or.inr ⟨Or.inl rfl, by omega, by omega, by omega, h.symm⟩)
  | fe2 =>
    simp only [checkDomain, checkRadix] at h
    split at h
    · cases h
    · split at h
      · cases h
      · injection h with h
        exact Or.inr (Or.inr ⟨Or.inr rfl, by omega, by omega, by omega, h.symm⟩)

/-- CONFIGURE's checks pass only for a kind that is not reserved, a non-negative round count, operands that pass the kind's
own checks, and a round function that exists; the descriptor is then made from the operands. -/
theorem validate_ok {s : State} {d : Descriptor} (h : validate s = .ok d) :
    ∃ k f, s.opKind = some k ∧ 0 ≤ s.opRounds ∧ checkDomain k s = .ok f ∧
      (s.opRfsel = true ∨ s.rfPresent = true) ∧ d = mkDescriptor k s f := by
  unfold validate at h
  split at h
  · cases h
  · rename_i k hk
    split at h
    · cases h
    · split at h
      · cases h
      · rename_i f hf
        split at h
        · cases h
        · rename_i hrf
          injection h with h
          refine ⟨k, f, hk, by omega, hf, ?_, h.symm⟩
          cases h1 : s.opRfsel <;> cases h2 : s.rfPresent <;> simp_all

/-- CONFIGURE either fails with the cause its checks report or loads the descriptor they give. -/
theorem configureCommand_cases (s : State) :
    (∃ c, validate s = .error c ∧ configureCommand s = fail c s) ∨
      (∃ d, validate s = .ok d ∧ configureCommand s = complete { s with act := d }) := by
  unfold configureCommand
  cases h : validate s with
  | error c => exact Or.inl ⟨c, rfl, rfl⟩
  | ok d => exact Or.inr ⟨d, rfl, rfl⟩

/-- APPLY fails without a descriptor, fails outside the domain, or starts the round ladder. -/
theorem applyCommand_cases (s : State) :
    (s.act.valid = false ∧ applyCommand s = fail .notConfigured s) ∨
      (s.act.valid = true ∧ s.act.inRange s.opX = false ∧ applyCommand s = fail .domain s) ∨
      (s.act.valid = true ∧ s.act.inRange s.opX = true ∧
        applyCommand s = { s.setWork (s.act.init s.eng.work s.opX) with
          eng := { (s.setWork (s.act.init s.eng.work s.opX)).eng with j := 0#32, phase := .run } }) := by
  unfold applyCommand
  cases hv : s.act.valid <;> cases hr : s.act.inRange s.opX <;> simp

/-- INVERT fails without a descriptor or toggles the direction. -/
theorem invertCommand_cases (s : State) :
    (s.act.valid = false ∧ invertCommand s = fail .notConfigured s) ∨
      (s.act.valid = true ∧ invertCommand s = complete { s with act := s.act.inverse }) := by
  unfold invertCommand
  cases hv : s.act.valid <;> simp

/-- What a host transaction can do: return a word, store into a staging register or nothing, or present a command. -/
theorem exec_cases {i : Instr} {s t : State} (h : exec i s = .next t) :
    (∃ rsv index, i = .regRead rsv index ∧ t = { s with readData := busRead rsv index s }) ∨
      (∃ rsv index data, i = .regWrite rsv index data ∧ rsv ≠ 0#3 ∧ t = s) ∨
      (∃ index data r, i = .regWrite 0#3 index data ∧ r = RegName.ofIndex index ∧ r ≠ .cmd ∧
        t = stageReg r data s) ∨
      (∃ index data, i = .regWrite 0#3 index data ∧ RegName.ofIndex index = .cmd ∧
        t = whenIdle (commandOf (opOf data)) s) ∨
      (∃ u, i = .configure u ∧ t = whenIdle configureCommand s) ∨
      (∃ u, i = .apply u ∧ t = whenIdle applyCommand s) ∨
      (∃ u, i = .invert u ∧ t = whenIdle invertCommand s) := by
  cases i with
  | regRead rsv index =>
    simp only [exec, execRegRead, Host.Outcome.next.injEq] at h
    exact Or.inl ⟨rsv, index, rfl, h.symm⟩
  | regWrite rsv index data =>
    simp only [exec, execRegWrite, busWrite, Host.Outcome.next.injEq] at h
    by_cases hr : rsv = 0#3
    · subst hr
      simp only [if_true] at h
      split at h
      · rename_i hc
        exact Or.inr (Or.inr (Or.inr (Or.inl ⟨index, data, rfl, hc, h.symm⟩)))
      · rename_i hc
        exact Or.inr (Or.inr (Or.inl ⟨index, data, _, rfl, rfl, hc, h.symm⟩))
    · rw [if_neg hr] at h
      exact Or.inr (Or.inl ⟨rsv, index, data, rfl, hr, h.symm⟩)
  | configure u =>
    simp only [exec, execConfigure, Host.Outcome.next.injEq] at h
    exact Or.inr (Or.inr (Or.inr (Or.inr (Or.inl ⟨u, rfl, h.symm⟩))))
  | apply u =>
    simp only [exec, execApply, Host.Outcome.next.injEq] at h
    exact Or.inr (Or.inr (Or.inr (Or.inr (Or.inr (Or.inl ⟨u, rfl, h.symm⟩)))))
  | invert u =>
    simp only [exec, execInvert, Host.Outcome.next.injEq] at h
    exact Or.inr (Or.inr (Or.inr (Or.inr (Or.inr (Or.inr ⟨u, rfl, h.symm⟩)))))

/-- The command a command word names is one of the three or the failure of an illegal OP. -/
theorem commandOf_cases (op : BitVec 8) :
    commandOf op = configureCommand ∨ commandOf op = applyCommand ∨ commandOf op = invertCommand ∨
      commandOf op = fail .illegalCmd := by
  unfold commandOf
  split
  · exact Or.inl rfl
  · split
    · exact Or.inr (Or.inl rfl)
    · split
      · exact Or.inr (Or.inr (Or.inl rfl))
      · exact Or.inr (Or.inr (Or.inr rfl))

/-- What one step of the machine can do, by the oldest pending step of an agent. -/
theorem step_cases {s t : State} (h : step s = .next t) :
    (s.agenda = [] ∧ t = engineStep s) ∨
      (∃ tx later, s.agenda = .host tx :: later ∧ exec (decode s.width tx) { s with agenda := later } = .next t) ∨
      (∃ later, s.agenda = .engine :: later ∧ t = engineStep { s with agenda := later }) ∨
      (∃ data later, s.agenda = .response data :: later ∧ t = takeResponse data { s with agenda := later }) ∨
      (∃ level later, s.agenda = .rfPresent level :: later ∧ t = { s with agenda := later, rfPresent := level }) ∨
      (∃ later, s.agenda = .reset :: later ∧ t = resetEngine { s with agenda := later }) := by
  unfold step at h
  split at h <;> rename_i hs
  · injection h with h
    exact Or.inl ⟨hs, h.symm⟩
  · rename_i tx later
    exact Or.inr (Or.inl ⟨tx, later, hs, h⟩)
  · rename_i later
    injection h with h
    exact Or.inr (Or.inr (Or.inl ⟨later, hs, h.symm⟩))
  · rename_i data later
    injection h with h
    exact Or.inr (Or.inr (Or.inr (Or.inl ⟨data, later, hs, h.symm⟩)))
  · rename_i level later
    injection h with h
    exact Or.inr (Or.inr (Or.inr (Or.inr (Or.inl ⟨level, later, hs, h.symm⟩))))
  · rename_i later
    injection h with h
    exact Or.inr (Or.inr (Or.inr (Or.inr (Or.inr ⟨later, hs, h.symm⟩))))

end Sys2Proof.Machine
end

