-- ==== Sys2Proof/Laws/PerInstr.lean ====
section
/-! SUPPORT. Facts that hold of every instruction as syntax, one lemma per constructor of Instr. -/

namespace Sys2Proof.Laws.CarrierFits

/-- The data word of the transaction that carries a well-formed instruction fits the W-bit port (30_encoding.md R71). -/
def Statement (i : Instr) : Prop := ∀ w : Width, i.wellFormed w = true → Machine.fitsIn w (encode i).data = true

theorem regRead (rsv : BitVec 3) (index : BitVec 4) : Statement (.regRead rsv index) :=
  fun w _ => Machine.zero_fits w

theorem regWrite (rsv : BitVec 3) (index : BitVec 4) (data : Word) : Statement (.regWrite rsv index data) := by
  intro w h
  simp only [Instr.wellFormed, Bool.and_eq_true] at h
  exact h.1

theorem configure (upper : BitVec 56) : Statement (.configure upper) := by
  intro w h
  rw [encode, fitsIn_cmdWord]
  exact h

theorem apply (upper : BitVec 56) : Statement (.apply upper) := by
  intro w h
  rw [encode, fitsIn_cmdWord]
  exact h

theorem invert (upper : BitVec 56) : Statement (.invert upper) := by
  intro w h
  rw [encode, fitsIn_cmdWord]
  exact h

end Sys2Proof.Laws.CarrierFits
end

