-- ==== Sys2Proof/Tests/Slice0.lean ====
section
/-! SUPPORT. The model's own tests, each a named theorem. Expected values come from the tables and derived vectors of spec/,
named beside each test; the `witness_` theorems show, for each statement with hypotheses, states and operands that meet
them. -/

namespace Sys2Proof.Tests

open Sys2Proof Sys2Proof.Machine

/-! ## Helpers: small states -/

/-- A field of the next state; none where a step gives no next state. -/
def after {α : Type} (f : State → α) (o : Host.Outcome State Fault Refusal) : Option α :=
  match o with
  | .next t => some (f t)
  | .fault _ => none
  | .refused _ => none

/-- BALANCED, T = 16, R = 3. -/
def bal16 : Descriptor :=
  { Descriptor.reset with valid := true, rounds := 3, totalBits := 16, sourceBits := 8, targetBits := 8 }

/-- UNBALANCED, T = 8, S = 3, TG = 2, R = 2. -/
def unb8 : Descriptor :=
  { Descriptor.reset with
    valid := true, kind := .unbalanced, rounds := 2, totalBits := 8, sourceBits := 3, targetBits := 2 }

/-- FE1, A = 3, B = 5, R = 2. -/
def fe1x : Descriptor := { Descriptor.reset with valid := true, kind := .fe1, rounds := 2, radixA := 3, radixB := 5 }

/-- FE2, A = 3, B = 5, R = 2. -/
def fe2x : Descriptor := { fe1x with kind := .fe2 }

/-- FE1 with the empty domain A = 0. -/
def feEmpty : Descriptor := { fe1x with radixA := 0 }

/-- IDLE, with an active descriptor and a staged X. -/
def idleAt (d : Descriptor) (x : Word) : State := { State.resetWith .w64 true with act := d, x := x }

/-- A staged construction, IDLE. -/
def staged (w : Width) (present : Bool) (cfg : BitVec 3) (sel : Bool) (r t s g : BitVec 32) (a b : Word) : State :=
  { State.resetWith w present with
    cfgKind := cfg, cfgRfsel := sel, rounds := r, totalBits := t, sourceBits := s, targetBits := g, radixA := a,
    radixB := b }

/-- RUN, with `j` rounds done. -/
def runAt (d : Descriptor) (j : BitVec 32) (ws l r : Word) (agenda : List Event) : State :=
  { idleAt d 0 with eng := { Engine.reset with phase := .run, j := j, ws := ws, l := l, r := r }, agenda := agenda }

/-- WAIT for the response to the first request of BALANCED T = 16 on x = 0x1234 (95_test_vectors.md V-BAL-1). -/
def waiting (agenda : List Event) : State :=
  { idleAt bal16 0x1234 with
    eng := { Engine.reset with phase := .wait, ws := 0x1234, reqValid := true, reqValue := 0x34 }, agenda := agenda }

/-! ## Well-formedness: an ill-formed term for each check -/

/-- A data word wider than the 32-bit port (R71). -/
theorem test_wellFormed_data : Instr.wellFormed .w32 (.regWrite 0 0xA 0x100000000) = false := by decide

/-- A write to CMD that spells CONFIGURE, APPLY or INVERT is not a REG_WRITE of its own (R73, log 9). -/
theorem test_wellFormed_command :
    Instr.wellFormed .w64 (.regWrite 0 0x1 0x01) = false ∧ Instr.wellFormed .w64 (.regWrite 0 0x1 0x102) = false ∧
      Instr.wellFormed .w64 (.regWrite 0 0x1 0x03) = false ∧ Instr.wellFormed .w64 (.regWrite 0 0x1 0x04) = true ∧
      Instr.wellFormed .w64 (.regWrite 1 0x1 0x01) = true := by decide

/-- An ignored part wider than the 24 bits a 32-bit command word has (R72). -/
theorem test_wellFormed_upper :
    Instr.wellFormed .w32 (.configure 0x1000000) = false ∧ Instr.wellFormed .w32 (.apply 0x1000000) = false ∧
      Instr.wellFormed .w32 (.invert 0x1000000) = false ∧ Instr.wellFormed .w32 (.invert 0xFFFFFF) = true := by decide

/-! ## Decoding: words written out from 30_encoding.md R71 to R73 -/

theorem test_decode_regRead : decode .w64 ⟨0b0_000_0010, 0⟩ = .regRead 0 0x2 := by decide

/-- V-REG-10: RSV = 1. -/
theorem test_decode_regRead_rsv : decode .w64 ⟨0b0_001_0010, 0⟩ = .regRead 1 0x2 := by decide

theorem test_decode_regWrite : decode .w64 ⟨0b1_000_0101, 16⟩ = .regWrite 0 0x5 16 := by decide

/-- A command word whose OP is illegal stays a write to CMD (V-APP-11); with RSV not 0 it presents nothing (R76). -/
theorem test_decode_regWrite_cmd :
    decode .w64 ⟨0b1_000_0001, 0x07⟩ = .regWrite 0 0x1 0x07 ∧ decode .w64 ⟨0b1_001_0001, 0x02⟩ = .regWrite 1 0x1 0x02 := by
  decide

theorem test_decode_configure : decode .w64 ⟨0b1_000_0001, 0b00000001⟩ = .configure 0 := by decide

/-- V-APP-10: the bits above OP are ignored. -/
theorem test_decode_apply : decode .w64 ⟨0b1_000_0001, 0b1_00000010⟩ = .apply 1 := by decide

theorem test_decode_invert : decode .w32 ⟨0b1_000_0001, 0b00000011⟩ = .invert 0 := by decide

/-- Bits above the 32-bit port are not there. -/
theorem test_decode_port_width : decode .w32 ⟨0b1_000_1010, 0x500000006⟩ = .regWrite 0 0xA 6 := by decide

/-- The headers of R80. -/
theorem test_headers :
    [rd .cap, rd .cmd, rd .status, rd .cfg, rd .rounds, rd .totalBits, rd .sourceBits, rd .targetBits, rd .radixA,
        rd .radixB, rd .x, rd .y].map (·.header) =
      [0x00, 0x01, 0x02, 0x03, 0x04, 0x05, 0x06, 0x07, 0x08, 0x09, 0x0A, 0x0B] ∧
    [wr .cmd 0, wr .cfg 0, wr .rounds 0, wr .totalBits 0, wr .sourceBits 0, wr .targetBits 0, wr .radixA 0, wr .radixB 0,
        wr .x 0].map (·.header) = [0x81, 0x83, 0x84, 0x85, 0x86, 0x87, 0x88, 0x89, 0x8A] := by decide

/-- The expansion of `cfg.fe2 7, 320, 200, 1` (R79, V-CFG-27). -/
theorem test_cfgFe2 :
    cfgFe2 7 320 200 true = [⟨0x83, 0x13⟩, ⟨0x84, 7⟩, ⟨0x88, 320⟩, ⟨0x89, 200⟩, ⟨0x81, 1⟩] := by decide

/-- The table's rows (spec/opcode_table.json): a header row with an index, and the command rows. -/
theorem test_decodeTableWord :
    decodeTableWord 8 0x0B = some (.regRead 0 0xB) ∧ decodeTableWord 8 0x84 = some (.regWrite 0 0x4 0) ∧
      decodeTableWord 8 0x01 = some (.configure 0) ∧ decodeTableWord 8 0x02 = some (.apply 0) ∧
      decodeTableWord 8 0x03 = some (.invert 0) ∧ decodeTableWord 16 0 = none := by decide

/-- `step` runs the word that `withFetchWord` places: INVERT right after reset is NOT_CONFIGURED (V-INV-1). -/
theorem test_withFetchWord : after State.statusWord (step (State.reset.withFetchWord 8 0x03)) = some 0xB4 := by decide

/-! ## One step of each instruction, against the vectors of 95_test_vectors.md -/

/-- V-REG-2, V-REG-10, V-REG-12. -/
theorem test_regRead :
    after (·.readData) (exec (.regRead 0 0x0) (State.resetWith .w32 true)) = some 0x120 ∧
      after (·.readData) (exec (.regRead 1 0x2) (idleAt bal16 0)) = some 0 ∧
      after (·.readData) (exec (.regRead 0 0xF) (idleAt bal16 5)) = some 0 := by decide

/-- V-INV-4's STATUS and a staged radix read back as written (V-REG-14). -/
theorem test_regRead_status :
    after (·.readData) (exec (.regRead 0 0x2) { idleAt { fe2x with rfsel := true } 0 with done := true }) = some 0x2D02 ∧
      after (·.readData) (exec (.regRead 0 0x8) (staged .w64 true 0 false 0 0 0 0 (-1) 0)) =
        some 0xFFFFFFFFFFFFFFFF := by decide

/-- V-REG-5, V-REG-6, V-REG-11. -/
theorem test_regWrite :
    after (readReg .cfg) (exec (.regWrite 0 0x3 0xFFFFFFFF) (State.resetWith .w32 true)) = some 0x17 ∧
      after (readReg .rounds) (exec (.regWrite 0 0x4 0x100000003) State.reset) = some 3 ∧
      after (readReg .x) (exec (.regWrite 1 0xA 5) State.reset) = some 0 := by decide

/-- V-APP-9, V-APP-11. -/
theorem test_regWrite_illegal :
    after State.statusWord (exec (.regWrite 0 0x1 0xFF) State.reset) = some 0x14 ∧
      after State.statusWord (exec (.regWrite 0 0x1 0x07) (idleAt unb8 0)) = some 0x514 := by decide

/-- V-CFG-1, V-CFG-12, V-CFG-27, V-CFG-29. -/
theorem test_configure :
    after State.statusWord (exec (.configure 0) (staged .w64 true 0 false 3 16 0 0 0 0)) = some 0x102 ∧
      after State.statusWord (exec (.configure 0) (staged .w64 true 1 false 3 17 5 7 0 0)) = some 0x502 ∧
      after State.statusWord (exec (.configure 0) (staged .w64 true 3 true 7 0 0 0 320 200)) = some 0x2D02 ∧
      after State.statusWord (exec (.configure 0) (staged .w64 false 0 true 3 16 0 0 0 0)) = some 0x2102 := by decide

/-- V-CFG-3, 4, 6, 7, 10, 13, 15, 23, 24, 28: one failure of each cause, and which one wins. -/
theorem test_configure_fails :
    after State.statusWord (exec (.configure 0) (staged .w64 true 7 false (-1) 0 0 0 0 0)) = some 0x24 ∧
      after State.statusWord (exec (.configure 0) (staged .w64 true 0 false (-1) 16 0 0 0 0)) = some 0x34 ∧
      after State.statusWord (exec (.configure 0) (staged .w64 true 0 false 3 65 0 0 0 0)) = some 0x44 ∧
      after State.statusWord (exec (.configure 0) (staged .w32 true 0 false 3 33 0 0 0 0)) = some 0x44 ∧
      after State.statusWord (exec (.configure 0) (staged .w64 true 0 false 3 15 0 0 0 0)) = some 0x54 ∧
      after State.statusWord (exec (.configure 0) (staged .w64 true 1 false 3 17 (-1) 7 0 0)) = some 0x64 ∧
      after State.statusWord (exec (.configure 0) (staged .w64 true 1 false 3 17 0x7FFFFFFF 0x7FFFFFFF 0 0)) =
        some 0x74 ∧
      after State.statusWord (exec (.configure 0) (staged .w32 true 3 false 2 0 0 0 0x80000000 1)) = some 0x84 ∧
      after State.statusWord (exec (.configure 0) (staged .w32 true 3 false 2 0 0 0 46341 46341)) = some 0x94 ∧
      after State.statusWord (exec (.configure 0) (staged .w64 false 0 false 3 16 0 0 0 0)) = some 0xA4 := by decide

/-- V-APP-3's STATUS while BUSY, V-APP-2, V-APP-4, V-APP-1. -/
theorem test_apply :
    after State.statusWord (exec (.apply 0) (idleAt bal16 0xFFFF)) = some 0x101 ∧
      after State.statusWord (exec (.apply 0) (idleAt bal16 0x10000)) = some 0x1C4 ∧
      after State.statusWord (exec (.apply 0) (idleAt feEmpty 0)) = some 0x9C4 ∧
      after State.statusWord (exec (.apply 0) State.reset) = some 0xB4 := by decide

/-- V-BAL-1's first round on 0x1234: the request (0, 0x34), and WS = 0x342E after the response 0x23C. -/
theorem test_apply_round :
    after (·.rfRequest) (step (runAt bal16 0 0x1234 0 0 [.engine])) = some ⟨true, 0, 0x34⟩ ∧
      after (·.eng.ws) (step (waiting [.response 0x23C])) = some 0x342E := by decide

/-- V-INV-2, V-INV-1. -/
theorem test_invert :
    after State.statusWord (exec (.invert 0) (idleAt bal16 0)) = some 0x302 ∧
      after State.statusWord (exec (.invert 0) State.reset) = some 0xB4 := by decide

/-- The worked examples of 43_bit_domain.md R185 and R186 and of 44_numeric.md R212, R213, R220 and R221, with the round
function `v * 11`: 0xB6 to 0x77, 7 to 10, 7 to 14, and back. -/
theorem test_invert_undoes_apply :
    unb8.applyFn (fun _ v => v * 11) 0xB6 = 0x77 ∧ unb8.inverse.applyFn (fun _ v => v * 11) 0x77 = 0xB6 ∧
      fe1x.applyFn (fun _ v => v * 11) 7 = 10 ∧ fe1x.inverse.applyFn (fun _ v => v * 11) 10 = 7 ∧
      fe2x.applyFn (fun _ v => v * 11) 7 = 14 ∧ fe2x.inverse.applyFn (fun _ v => v * 11) 14 = 7 := by decide

/-! ## Witnesses of the statements' hypotheses -/

theorem legal_bal16 : bal16.Legal .w64 :=
  ⟨by decide, by decide, by decide, by decide, by decide, by decide, by decide, by decide⟩

theorem legal_unb8 : unb8.Legal .w64 := ⟨by decide, by decide, by decide, by decide, by decide, by decide⟩

theorem legal_fe1x : fe1x.Legal .w64 :=
  ⟨by decide, by decide, by decide, by decide, by decide, by decide, by decide, by decide⟩

theorem legal_fe2x : fe2x.Legal .w64 :=
  ⟨by decide, by decide, by decide, by decide, by decide, by decide, by decide, by decide⟩

theorem legal_feEmpty : feEmpty.Legal .w64 :=
  ⟨by decide, by decide, by decide, by decide, by decide, by decide, by decide, by decide⟩

/-- The agents' later steps do not matter to the invariant. -/
theorem inv_any_agenda {s : State} (h : s.Inv) (agenda : List Event) : ({ s with agenda := agenda } : State).Inv :=
  ⟨h.wordsFit, h.statusOk, h.actOk, h.requestIffWait, h.busyOk, h.waitOk⟩

/-- The invariant of an IDLE state with a legal descriptor of a 64-bit engine. -/
theorem inv_idleAt {d : Descriptor} (x : Word) (h : d.Legal .w64) : (idleAt d x).Inv where
  wordsFit := by
    have hx : fitsIn .w64 x = true := decide_eq_true x.isLt
    exact ⟨rfl, rfl, hx, rfl, rfl, rfl, rfl, rfl, rfl⟩
  statusOk := by simp [State.StatusOk, State.busy, idleAt, State.resetWith, Engine.reset]
  actOk := Or.inl h
  requestIffWait := by simp [idleAt, State.resetWith, Engine.reset]
  busyOk := fun hb => absurd rfl hb
  waitOk := fun hw => by cases hw

/-- The invariant in RUN with the last round of V-BAL-1 left. -/
theorem inv_last_round : (runAt bal16 2 0x1234 0 0 []).Inv where
  wordsFit := by unfold State.WordsFit; decide
  statusOk := by unfold State.StatusOk; decide
  actOk := Or.inl legal_bal16
  requestIffWait := by decide
  busyOk := fun _ => ⟨by decide, by decide, show ((0x1234 : Nat) : Int) ≤ bal16.max by decide⟩
  waitOk := fun h => by cases h

/-- The invariant in RUN with no round left. -/
theorem inv_no_round : (runAt bal16 3 0x1234 0 0 []).Inv where
  wordsFit := by unfold State.WordsFit; decide
  statusOk := by unfold State.StatusOk; decide
  actOk := Or.inl legal_bal16
  requestIffWait := by decide
  busyOk := fun _ => ⟨by decide, by decide, show ((0x1234 : Nat) : Int) ≤ bal16.max by decide⟩
  waitOk := fun h => by cases h

/-- The invariant in RUN with every round of an FE2 descriptor done and the pair in the ranges of its position. -/
theorem inv_fe2_done {d : Descriptor} {l r : Word} {agenda : List Event} (h : d.Legal .w64) (hk : d.kind = .fe2)
    (hv : d.valid = true) {j : BitVec 32} (hj : j = d.rounds)
    (hl : l.toNat < d.modulus (if d.dir then d.rounds.toNat - j.toNat else j.toNat))
    (hr : r.toNat < d.modulus ((if d.dir then d.rounds.toNat - j.toNat else j.toNat) + 1)) :
    (runAt d j 0 l r agenda).Inv where
  wordsFit := ⟨rfl, rfl, rfl, rfl, rfl, decide_eq_true l.isLt, decide_eq_true r.isLt, rfl, rfl⟩
  statusOk := by simp [State.StatusOk, State.busy, runAt, idleAt, State.resetWith]
  actOk := Or.inl h
  requestIffWait := by simp [runAt, Engine.reset]
  busyOk := fun _ => ⟨hv, by subst hj; exact Nat.le_refl _, by
    unfold Descriptor.InRounds
    simp only [runAt, idleAt, hk]
    exact ⟨hl, hr⟩⟩
  waitOk := fun e => by cases e

/-- The invariant in WAIT. -/
theorem inv_waiting : (waiting []).Inv where
  wordsFit := by unfold State.WordsFit; decide
  statusOk := by unfold State.StatusOk; decide
  actOk := Or.inl legal_bal16
  requestIffWait := by decide
  busyOk := fun _ => ⟨by decide, by decide, show ((0x1234 : Nat) : Int) ≤ bal16.max by decide⟩
  waitOk := fun _ => by unfold State.RequestOk; decide

theorem witness_DecodeInvertsEncode :
    Instr.wellFormed .w32 (.regRead 7 0xF) = true ∧ Instr.wellFormed .w32 (.regWrite 7 0xF 0xFFFFFFFF) = true ∧
      Instr.wellFormed .w64 (.regWrite 0 0x1 0xFF) = true ∧ Instr.wellFormed .w64 (.configure 0xFFFFFFFFFFFFFF) = true ∧
      Instr.wellFormed .w32 (.apply 0xFFFFFF) = true ∧ Instr.wellFormed .w32 (.invert 0) = true := by decide

/-- The last read header and the first write header, with the widest data word of a 32-bit port. -/
theorem witness_EncodeInvertsDecode :
    fitsIn .w32 0xFFFFFFFF = true ∧ ¬128 ≤ (0x7F#8).toNat ∧ 128 ≤ (0x80#8).toNat := by decide

/-- A word of each clause; 0, 4 and 255 bound the last one's. -/
theorem witness_CommandNamedByLowByte :
    (fitsIn .w32 0xFFFFFF01 = true ∧ (0xFFFFFF01#64).toNat % 256 = 1) ∧
      (fitsIn .w32 0x102 = true ∧ (0x102#64).toNat % 256 = 2) ∧ (fitsIn .w32 0x03 = true ∧ (0x03#64).toNat % 256 = 3) ∧
      (fitsIn .w32 0x100 = true ∧ (0x100#64).toNat % 256 = 0) ∧ (fitsIn .w32 0x04 = true ∧ 4 ≤ (0x04#64).toNat % 256) ∧
      (fitsIn .w32 0xFF = true ∧ 4 ≤ (0xFF#64).toNat % 256) := by decide

theorem witness_StepRunsDecodedTransaction :
    ({ idleAt bal16 0 with agenda := [.host ⟨0x81, 3⟩, .engine] } : State).agenda = .host ⟨0x81, 3⟩ :: [.engine] := by
  decide

/-- Reset while a request is outstanding. -/
theorem witness_ResetEventRestoresResetState : (waiting [.reset, .engine]).agenda = .reset :: [.engine] := by decide

/-- The bounds of the ranges of RSV and of the indices that read 0. -/
theorem witness_RegReadReturnsRegister : 1#3 ≠ 0#3 ∧ 0xC ≤ (0xC#4).toNat ∧ 0xC ≤ (0xF#4).toNat := by decide

theorem witness_RegWriteStagesRegister :
    fitsIn (State.resetWith .w32 true).width 0xFFFFFFFF = true ∧ fitsIn State.reset.width 0xFFFFFFFFFFFFFFFF = true := by
  decide

theorem witness_IgnoredWritesChangeNothing : 1#3 ≠ 0#3 ∧ 0xB ≤ (0xB#4).toNat ∧ 0xB ≤ (0xF#4).toNat := by decide

/-- CFG, TARGET_BITS, RADIX_A and X bound the three clauses. -/
theorem witness_ReadAfterWriteReturnsFields :
    fitsIn State.reset.width 0xFFFFFFFFFFFFFFFF = true ∧ 0x3 ≤ (0x3#4).toNat ∧ (0x7#4).toNat ≤ 0x7 ∧
      ¬(0x8#4).toNat ≤ 0x7 ∧ (0xA#4).toNat ≤ 0xA := by decide

theorem witness_CommandWriteIsCommand :
    (0x01#64).toNat % 256 = 1 ∧ (0x102#64).toNat % 256 = 2 ∧ (0xFFFFFFFFFFFFFF03#64).toNat % 256 = 3 := by decide

theorem witness_IllegalOpFailsIllegalCmd :
    (idleAt bal16 0).eng.phase = .idle ∧ (0x100#64).toNat % 256 = 0 ∧ 4 ≤ (0x04#64).toNat % 256 ∧
      4 ≤ (0xFF#64).toNat % 256 := by decide

/-- Both busy phases. -/
theorem witness_BusyDropsEveryCommand :
    (runAt bal16 0 0x1234 0 0 []).eng.phase ≠ .idle ∧ (waiting []).eng.phase ≠ .idle := by decide

theorem witness_AcceptanceClearsOutcome : (idleAt bal16 0x1234).eng.phase = .idle := by decide

theorem witness_AcceptedCommandsEndOnce :
    (idleAt bal16 0x1234).eng.phase = .idle ∧ ((0x04#64).toNat % 256 = 0 ∨ 4 ≤ (0x04#64).toNat % 256) := by decide

/-- A command of each kind that fails. -/
theorem witness_FailedCommandOnlyReports :
    (idleAt bal16 0x10000).eng.phase = .idle ∧
      (∃ t, exec (.apply 0) (idleAt bal16 0x10000) = .next t ∧ t.err = true) ∧
      (∃ t, exec (.configure 0) (staged .w64 true 7 false 0 0 0 0 0 0) = .next t ∧ t.err = true) ∧
      (∃ t, exec (.invert 0) State.reset = .next t ∧ t.err = true) ∧
      (∃ t, exec (.regWrite 0 0x1 0) State.reset = .next t ∧ t.err = true) :=
  ⟨by decide, ⟨_, rfl, by decide⟩, ⟨_, rfl, by decide⟩, ⟨_, rfl, by decide⟩, ⟨_, rfl, by decide⟩⟩

/-- BALANCED with T = 0 and T = W, and UNBALANCED with the split s + t = T (V-CFG-9, 11, 16). -/
theorem witness_ConfigureLoadsBitDomain :
    (let s := staged .w32 true 0 false 0 0 0 0 0 0
     s.eng.phase = .idle ∧ 0 ≤ s.rounds.toInt ∧ 0 ≤ s.totalBits.toInt ∧ s.totalBits.toInt ≤ s.width.bits ∧
       s.rfPresent = true ∧ s.cfgKind = 0 ∧ s.totalBits.toInt % 2 = 0) ∧
    (let s := staged .w32 false 0 true 3 32 0 0 0 0
     s.eng.phase = .idle ∧ 0 ≤ s.rounds.toInt ∧ 0 ≤ s.totalBits.toInt ∧ s.totalBits.toInt ≤ s.width.bits ∧
       s.cfgRfsel = true ∧ s.cfgKind = 0 ∧ s.totalBits.toInt % 2 = 0) ∧
    (let s := staged .w64 true 1 false 1 64 64 0 0 0
     s.eng.phase = .idle ∧ 0 ≤ s.rounds.toInt ∧ 0 ≤ s.totalBits.toInt ∧ s.totalBits.toInt ≤ s.width.bits ∧
       s.rfPresent = true ∧ s.cfgKind = 1 ∧ 0 ≤ s.sourceBits.toInt ∧ 0 ≤ s.targetBits.toInt ∧
       s.sourceBits.toInt + s.targetBits.toInt ≤ s.totalBits.toInt) := by decide

/-- FE1 with an empty domain and FE2 with the largest (V-CFG-26, 22). -/
theorem witness_ConfigureLoadsRadix :
    (let s := staged .w64 true 2 false 2 0 0 0 0 5
     s.eng.phase = .idle ∧ 0 ≤ s.rounds.toInt ∧ fitsIn s.width s.radixA = true ∧ fitsIn s.width s.radixB = true ∧
       0 ≤ sintW s.width s.radixA ∧ 0 ≤ sintW s.width s.radixB ∧
       sintW s.width s.radixA * sintW s.width s.radixB ≤ 2 ^ (s.width.bits - 1) - 1 ∧ s.rfPresent = true ∧
       s.cfgKind = 2) ∧
    (let s := staged .w64 true 3 false 2 0 0 0 0x7FFFFFFFFFFFFFFF 1
     s.eng.phase = .idle ∧ 0 ≤ s.rounds.toInt ∧ fitsIn s.width s.radixA = true ∧ fitsIn s.width s.radixB = true ∧
       0 ≤ sintW s.width s.radixA ∧ 0 ≤ sintW s.width s.radixB ∧
       sintW s.width s.radixA * sintW s.width s.radixB = 2 ^ (s.width.bits - 1) - 1 ∧ s.rfPresent = true ∧
       s.cfgKind = 3) := by decide

/-- IDLE with an illegal construction (a code other than 0) and with a legal one (code 0). -/
theorem witness_ConfigureReportsFirstFailure :
    (staged .w64 true 4 false 3 16 0 0 0 0).eng.phase = .idle ∧ 4 ≤ (staged .w64 true 4 false 3 16 0 0 0 0).cfgKind.toNat ∧
      after (·.done) (exec (.configure 0) (staged .w64 true 0 false 3 16 0 0 0 0)) = some true := by decide

/-- A next state for each kind. -/
theorem witness_ConfigureReadsOnlyItsOperands :
    (∃ t, exec (.configure 0) (staged .w64 true 0 false 3 16 0 0 0 0) = .next t) ∧
      (∃ t, exec (.configure 0) (staged .w64 true 1 false 3 17 5 7 0 0) = .next t) ∧
      (∃ t, exec (.configure 0) (staged .w64 true 2 false 2 0 0 0 3 5) = .next t) ∧
      (∃ t, exec (.configure 0) (staged .w64 true 3 false 2 0 0 0 3 5) = .next t) :=
  ⟨⟨_, rfl⟩, ⟨_, rfl⟩, ⟨_, rfl⟩, ⟨_, rfl⟩⟩

/-- A 32-bit engine that accepts, and the two bounds just passed (V-CFG-9, 7). -/
theorem witness_NarrowConfigureAgreesWithWide :
    (let s := staged .w32 true 0 false 3 32 0 0 0 0
     s.width = .w32 ∧ s.eng.phase = .idle ∧ s.WordsFit ∧ after (·.done) (exec (.configure 0) s) = some true) ∧
    (let s := staged .w32 true 0 false 3 33 0 0 0 0
     s.width = .w32 ∧ s.eng.phase = .idle ∧ s.WordsFit ∧ s.cfgKind.toNat ≤ 1 ∧ 0 ≤ s.rounds.toInt ∧
       32 < s.totalBits.toInt) ∧
    (let s := staged .w32 true 3 false 2 0 0 0 0x40000000 2
     s.width = .w32 ∧ s.eng.phase = .idle ∧ s.WordsFit ∧ s.cfgKind = 3 ∧ 0 ≤ s.rounds.toInt ∧
       0 ≤ sintW .w32 s.radixA ∧ 0 ≤ sintW .w32 s.radixB ∧ 2 ^ 31 - 1 < s.radixA.toNat * s.radixB.toNat) := by
  unfold State.WordsFit; decide

/-- One legal descriptor of each kind and an empty domain, at the bounds of each domain. -/
theorem witness_DomainBounds :
    (bal16.Legal .w64 ∧ bal16.kind = .balanced ∧ bal16.inRange 0xFFFF = true ∧ bal16.inRange 0x10000 = false) ∧
      (unb8.Legal .w64 ∧ unb8.kind = .unbalanced ∧ unb8.inRange 0xFF = true) ∧
      (fe1x.Legal .w64 ∧ fe1x.kind = .fe1 ∧ fe1x.inRange 14 = true ∧ fe1x.inRange 15 = false) ∧
      (fe2x.Legal .w64 ∧ fe2x.kind = .fe2) ∧ (feEmpty.Legal .w64 ∧ feEmpty.kind = .fe1 ∧ feEmpty.radixA = 0#64) :=
  ⟨⟨legal_bal16, by decide⟩, ⟨legal_unb8, by decide⟩, ⟨legal_fe1x, by decide⟩, ⟨legal_fe2x, by decide⟩,
    ⟨legal_feEmpty, by decide⟩⟩

/-- The largest value of a bit domain, and FE2 values forward and in reverse with both final moduli. -/
theorem witness_ApplyStartsLadder :
    (let s := idleAt bal16 0xFFFF
     s.eng.phase = .idle ∧ s.act.valid = true ∧ fitsIn s.width s.x = true ∧ (s.x.toNat : Int) ≤ s.act.max ∧
       s.act.kind ≠ .fe2) ∧
    (let s := idleAt fe2x 14
     s.eng.phase = .idle ∧ s.act.valid = true ∧ fitsIn s.width s.x = true ∧ (s.x.toNat : Int) ≤ s.act.max ∧
       s.act.kind = .fe2 ∧ s.act.dir = false) ∧
    (let s := idleAt { fe2x with dir := true } 14
     s.eng.phase = .idle ∧ s.act.valid = true ∧ fitsIn s.width s.x = true ∧ (s.x.toNat : Int) ≤ s.act.max ∧
       s.act.kind = .fe2 ∧ s.act.dir = true ∧ s.act.rounds.toNat % 2 = 0) ∧
    (let s := idleAt { fe2x with dir := true, rounds := 1 } 14
     s.eng.phase = .idle ∧ s.act.valid = true ∧ fitsIn s.width s.x = true ∧ (s.x.toNat : Int) ≤ s.act.max ∧
       s.act.kind = .fe2 ∧ s.act.dir = true ∧ s.act.rounds.toNat % 2 = 1) := by decide

/-- No descriptor, the first value outside a domain, and 0 in an empty domain. -/
theorem witness_ApplyRejectsWithCode :
    (State.reset.eng.phase = .idle ∧ State.reset.act.valid = false) ∧
      (let s := idleAt bal16 0x10000
       s.eng.phase = .idle ∧ s.act.valid = true ∧ s.act.max < (s.x.toNat : Int)) ∧
      (let s := idleAt feEmpty 0
       s.eng.phase = .idle ∧ s.act.valid = true ∧ s.act.max < (s.x.toNat : Int)) := by decide

/-- In RUN with the last round left and the external round function. -/
theorem witness_RunStepSendsRequest :
    let s := runAt bal16 2 0x1234 0 0 [.engine]
    s.agenda = .engine :: [] ∧ s.Inv ∧ s.eng.phase = .run ∧ s.eng.j ≠ s.act.rounds ∧ s.act.rfsel = false :=
  ⟨rfl, inv_any_agenda inv_last_round _, by decide⟩

/-- In RUN with the built-in round function, FE2 in reverse. -/
theorem witness_RunStepBuiltinRound :
    let s := runAt { fe2x with rfsel := true, dir := true } 0 0 2 4 [.engine]
    s.agenda = .engine :: [] ∧ s.Inv ∧ s.eng.phase = .run ∧ s.eng.j ≠ s.act.rounds ∧ s.act.rfsel = true :=
  ⟨rfl,
    { wordsFit := by unfold State.WordsFit; decide
      statusOk := by unfold State.StatusOk; decide
      actOk := Or.inl legal_fe2x
      requestIffWait := by decide
      busyOk := fun _ => ⟨by decide, by decide, show (2 : Nat) < 3 ∧ (4 : Nat) < 5 by decide⟩
      waitOk := fun h => by cases h },
    by decide⟩

theorem witness_WaitTakesResponse :
    (let s := waiting [.response 0x23C]
     s.agenda = .response 0x23C :: [] ∧ s.Inv ∧ s.eng.phase = .wait) ∧
    (let s := waiting [.engine]
     s.agenda = .engine :: [] ∧ s.eng.phase = .wait) :=
  ⟨⟨rfl, inv_any_agenda inv_waiting _, by decide⟩, by decide⟩

/-- A response in each of the other phases. -/
theorem witness_UnaskedResponseIgnored :
    (let s := runAt bal16 0 0x1234 0 0 [.response 5]
     s.agenda = .response 5 :: [] ∧ s.eng.phase ≠ .wait) ∧
    (let s : State := { State.reset with agenda := [.response 5] }
     s.agenda = .response 5 :: [] ∧ s.eng.phase ≠ .wait) := by decide

theorem witness_UnansweredRequestHangs : (waiting []).eng.phase = .wait ∧ (waiting []).agenda = [] := by decide

/-- WAIT before each way out and before steps that are none. -/
theorem witness_OnlyResponseOrResetLeavesWait :
    (waiting [.engine]).eng.phase = .wait ∧ (∃ t, step (waiting [.engine]) = .next t) ∧
      after (·.eng.phase) (step (waiting [.host ⟨0x81, 3⟩])) = some .wait ∧
      after (·.eng.phase) (step (waiting [.response 0x23C])) = some .run ∧
      after (·.eng.phase) (step (waiting [.reset])) = some .idle := ⟨by decide, ⟨_, rfl⟩, by decide⟩

/-- In RUN with no round left: BALANCED, and FE2 in both directions with both final moduli. -/
theorem witness_CompletingStepWritesY :
    (let s := runAt bal16 3 0x1234 0 0 [.engine]
     s.agenda = .engine :: [] ∧ s.Inv ∧ s.eng.phase = .run ∧ s.eng.j = s.act.rounds ∧ s.act.kind ≠ .fe2) ∧
    (let s := runAt fe2x 2 0 2 4 [.engine]
     s.agenda = .engine :: [] ∧ s.Inv ∧ s.eng.phase = .run ∧ s.eng.j = s.act.rounds ∧ s.act.kind = .fe2 ∧
       s.act.dir = false ∧ s.act.rounds.toNat % 2 = 0) ∧
    (let s := runAt { fe2x with rounds := 1 } 1 0 4 2 [.engine]
     s.agenda = .engine :: [] ∧ s.Inv ∧ s.eng.phase = .run ∧ s.eng.j = s.act.rounds ∧ s.act.kind = .fe2 ∧
       s.act.dir = false ∧ s.act.rounds.toNat % 2 = 1) ∧
    (let s := runAt fe2x.inverse 2 0 2 4 [.engine]
     s.agenda = .engine :: [] ∧ s.Inv ∧ s.eng.phase = .run ∧ s.eng.j = s.act.rounds ∧ s.act.kind = .fe2 ∧
       s.act.dir = true) :=
  ⟨⟨rfl, inv_any_agenda inv_no_round _, by decide⟩,
    ⟨rfl, inv_fe2_done ⟨by decide, by decide, legal_fe2x.2.2⟩ (by decide) (by decide) rfl (by decide) (by decide), by decide⟩,
    ⟨rfl, inv_fe2_done ⟨by decide, by decide, legal_fe2x.2.2⟩ (by decide) (by decide) rfl (by decide) (by decide), by decide⟩,
    ⟨rfl, inv_fe2_done ⟨by decide, by decide, legal_fe2x.2.2⟩ (by decide) (by decide) rfl (by decide) (by decide), by decide⟩⟩

theorem witness_InvertTogglesDirection :
    ((idleAt bal16 0).eng.phase = .idle ∧ (idleAt bal16 0).act.valid = true) ∧
      (State.reset.eng.phase = .idle ∧ State.reset.act.valid = false) := by decide

theorem witness_InvertTwiceRestoresDescriptor :
    ∃ t t', exec (.invert 0) (idleAt bal16 0) = .next t ∧ t.done = true ∧ (idleAt bal16 0).eng.phase = .idle ∧
      exec (.invert 0) t = .next t' := ⟨_, _, rfl, by decide, by decide, rfl⟩

/-- A step in each phase from a state that meets the invariant. -/
theorem witness_InvariantKeptByStep :
    ((idleAt bal16 0x1234).Inv ∧ ∃ t, step (idleAt bal16 0x1234) = .next t) ∧
      ((runAt bal16 2 0x1234 0 0 []).Inv ∧ ∃ t, step (runAt bal16 2 0x1234 0 0 []) = .next t) ∧
      ((waiting []).Inv ∧ ∃ t, step (waiting []) = .next t) :=
  ⟨⟨inv_idleAt _ legal_bal16, _, rfl⟩, ⟨inv_last_round, _, rfl⟩, ⟨inv_waiting, _, rfl⟩⟩

/-- A step of each agent that changes what the statement is about. -/
theorem witness_DescriptorChangedOnlyByConfigureInvertReset :
    after (·.act.valid) (step { staged .w64 true 0 false 3 16 0 0 0 0 with agenda := [.host ⟨0x81, 1⟩] }) = some true ∧
      after (·.act.dir) (step { idleAt bal16 0 with agenda := [.host ⟨0x81, 3⟩] }) = some true ∧
      after (·.act.valid) (step (waiting [.reset])) = some false := by decide

theorem witness_ResultChangedOnlyByCompletion :
    ∃ t, step (runAt bal16 3 0x1234 0 0 [.engine]) = .next t ∧ t.y ≠ (runAt bal16 3 0x1234 0 0 [.engine]).y :=
  ⟨_, rfl, by decide⟩

theorem witness_StagingChangedOnlyByRegWrite :
    after (·.x) (step { State.reset with agenda := [.host ⟨0x8A, 7⟩] }) = some 7 := by decide

theorem witness_ParametersKeptByStep :
    after (·.rfPresent) (step { State.reset with agenda := [.rfPresent false] }) = some false := by decide

/-- Fields at the top of their ranges, and a field of width 0; the machine's rounds of an even and of an odd index, whose
widths are (3, 2) and (2, 3), on the values of 43_bit_domain.md R185's example, and of BALANCED. -/
theorem witness_ForwardBitRoundMovesFields :
    (7 < 2 ^ 3 ∧ 0 < 2 ^ 0 ∧ 3 < 2 ^ 2) ∧
      (unb8.kind = .unbalanced ∧ unb8.dir = false ∧ 5 < 2 ^ unb8.sourceBits.toNat ∧ 5 < 2 ^ (8 - 3 - 2) ∧
        2 < 2 ^ unb8.targetBits.toNat ∧ 0xB6 = 5 * 2 ^ (3 + 2) + 5 * 2 ^ 2 + 2) ∧
      (2 < 2 ^ unb8.targetBits.toNat ∧ 3 < 2 ^ unb8.sourceBits.toNat ∧ 0xAB = 2 * 2 ^ (3 + 3) + 5 * 2 ^ 3 + 3) ∧
      (bal16.kind = .balanced ∧ bal16.dir = false ∧ 0x12 < 2 ^ bal16.sourceBits.toNat ∧ 0 < 2 ^ (16 - 8 - 8) ∧
        0x34 < 2 ^ bal16.targetBits.toNat ∧ 0x1234 = 0x12 * 2 ^ (0 + 8) + 0 * 2 ^ 8 + 0x34) := by decide

/-- The same in reverse, on the values of 43_bit_domain.md R186's example. -/
theorem witness_ReverseBitRoundMovesFields :
    (3 < 2 ^ 2 ∧ 0 < 2 ^ 0 ∧ 7 < 2 ^ 3) ∧
      (unb8.inverse.kind = .unbalanced ∧ unb8.inverse.dir = true ∧ 3 < 2 ^ unb8.inverse.sourceBits.toNat ∧
        5 < 2 ^ (8 - 3 - 2) ∧ 3 < 2 ^ unb8.inverse.targetBits.toNat ∧ 0x77 = 3 * 2 ^ (3 + 2) + 5 * 2 ^ 2 + 3) ∧
      (2 < 2 ^ unb8.inverse.targetBits.toNat ∧ 3 < 2 ^ unb8.inverse.sourceBits.toNat ∧
        0xAB = 2 * 2 ^ (3 + 3) + 5 * 2 ^ 3 + 3) ∧
      (bal16.inverse.kind = .balanced ∧ bal16.inverse.dir = true ∧ 0x34 < 2 ^ bal16.inverse.targetBits.toNat ∧
        0x2E < 2 ^ bal16.inverse.sourceBits.toNat ∧ 0x342E = 0x34 * 2 ^ (0 + 8) + 0 * 2 ^ 8 + 0x2E) := by decide

theorem witness_BitRoundsUndoEachOther : 3 + 2 ≤ 5 ∧ 3 + 2 ≤ 8 ∧ 0xFF < 2 ^ 8 := by decide

theorem witness_OnlyLowResponseBitsCount : (-1 : Int) % 2 ^ 3 = (7 : Int) % 2 ^ 3 ∧ 255 < 2 ^ (3 + 3 + 2) := by decide

theorem witness_Fe1RoundsUndoEachOther :
    14 < 3 * 5 ∧
      (fe1x.kind = .fe1 ∧ 0 < fe1x.radixA.toNat ∧ 0 < fe1x.radixB.toNat ∧ fe1x.dir = false) ∧
      (fe1x.inverse.kind = .fe1 ∧ 0 < fe1x.inverse.radixA.toNat ∧ 0 < fe1x.inverse.radixB.toNat ∧
        fe1x.inverse.dir = true) := by decide

/-- Both parities, each pair at the top of its ranges, and a descriptor of each direction. -/
theorem witness_Fe2RoundsUndoEachOther :
    (2 < fe2Modulus 3 5 0 ∧ 4 < fe2Modulus 3 5 1 ∧ 4 < fe2Modulus 3 5 3 ∧ 2 < fe2Modulus 3 5 4) ∧
      (fe2x.kind = .fe2 ∧ 0 < fe2x.radixA.toNat ∧ 0 < fe2x.radixB.toNat ∧ fe2x.dir = false) ∧
      (fe2x.inverse.kind = .fe2 ∧ 0 < fe2x.inverse.radixA.toNat ∧ 0 < fe2x.inverse.radixB.toNat ∧
        fe2x.inverse.dir = true) := by decide

theorem witness_BalancedIsEqualSplit : bal16.Legal .w64 ∧ bal16.kind = .balanced := ⟨legal_bal16, rfl⟩

theorem witness_Fe1AndFe2AgreeOnOneRound :
    let d := { fe1x with rounds := 1 }
    d.Legal .w64 ∧ d.kind = .fe1 ∧ d.dir = false ∧ d.rounds = 1#32 ∧ d.inRange 14 = true :=
  ⟨⟨by decide, by decide, legal_fe1x.2.2⟩, by decide⟩

theorem witness_ZeroRoundsIsIdentity :
    let d := { fe2x with rounds := 0, dir := true }
    d.Legal .w64 ∧ d.rounds = 0#32 ∧ d.inRange 14 = true := ⟨⟨by decide, by decide, legal_fe2x.2.2⟩, by decide⟩

theorem witness_EmptySplitIsIdentity :
    let d := { unb8 with sourceBits := 0, targetBits := 0 }
    d.Legal .w64 ∧ d.kind = .unbalanced ∧ d.sourceBits = 0#32 ∧ d.targetBits = 0#32 ∧ d.inRange 0xFF = true :=
  ⟨⟨by decide, by decide, by decide, by decide, by decide, by decide⟩, by decide⟩

theorem witness_ApplyStaysInDomain : fe2x.Legal .w64 ∧ fe2x.inRange 14 = true := ⟨legal_fe2x, by decide⟩

theorem witness_InverseUndoesApply : unb8.Legal .w64 ∧ unb8.inRange 0xB6 = true := ⟨legal_unb8, by decide⟩

/-- Two descriptors, the second applied to the first's result. -/
theorem witness_CompositionInvertsInOppositeOrder :
    unb8.Legal .w64 ∧ bal16.Legal .w64 ∧ unb8.inRange 0xB6 = true ∧
      bal16.inRange (unb8.applyFn (fun _ v => v * 11) 0xB6) = true := ⟨legal_unb8, legal_bal16, by decide⟩

/-- A round function with W-bit responses, negative ones among them. -/
def someRF (i v : Nat) : Int := if i = 0 then -(2 ^ 63) else ((v % 2 ^ 32 : Nat) : Int)

theorem someRF_responds : RespondsIn .w64 someRF := by
  intro i v
  unfold someRF
  constructor <;> split <;> norm_num [Width.bits] <;> omega

theorem witness_AnsweredApplyCompletes :
    let s := idleAt bal16 0x1234
    s.Inv ∧ s.eng.phase = .idle ∧ s.act.valid = true ∧ s.act.rfsel = false ∧ s.act.inRange s.x.toNat = true ∧
      RespondsIn s.width someRF ∧ ∃ t, exec (.apply 0) s = .next t :=
  ⟨inv_idleAt _ legal_bal16, by decide, by decide, by decide, by decide, someRF_responds, _, rfl⟩

theorem witness_BuiltinApplyCompletes :
    let s := idleAt { bal16 with rfsel := true } 0x1234
    s.Inv ∧ s.eng.phase = .idle ∧ s.act.valid = true ∧ s.act.rfsel = true ∧ s.act.inRange s.x.toNat = true ∧
      ∃ t, exec (.apply 0) s = .next t :=
  ⟨inv_idleAt _ legal_bal16, by decide, by decide, by decide, by decide, _, rfl⟩

/-- One round of BALANCED on 0x1234 with the external round function, a dropped command and a late response among its
events; and with the built-in one. -/
theorem witness_AnsweredApplyWritesResult :
    (let s := idleAt { bal16 with rounds := 1 } 0x1234
     let es : List Event := [.engine, .host ⟨0x81, 1⟩, .engine, .response 0x23C, .engine]
     s.Inv ∧ s.eng.phase = .idle ∧ s.act.valid = true ∧ s.act.inRange s.x.toNat = true ∧ s.act.rfsel = false ∧
       ∃ t, exec (.apply 0) s = .next t ∧ AnsweredBy (fun _ v => v * 11) es t ∧ (runEvents es t).eng.phase = .idle) ∧
    (let s := idleAt { bal16 with rounds := 1, rfsel := true } 0x1234
     let es : List Event := [.engine, .engine]
     s.Inv ∧ s.eng.phase = .idle ∧ s.act.valid = true ∧ s.act.inRange s.x.toNat = true ∧
       ∃ t, exec (.apply 0) s = .next t ∧ AnsweredBy (fun _ v => sintW .w64 (BitVec.ofNat 64 v)) es t ∧
         (runEvents es t).eng.phase = .idle) := by
  refine ⟨⟨inv_idleAt _ ⟨by decide, by decide, legal_bal16.2.2⟩, by decide, by decide, by decide, by decide, _, rfl,
      ⟨by decide, by decide, ?_, by decide, by decide, ?_, by decide, by decide, ?_, by decide, by decide, ?_,
        by decide, by decide, ?_, trivial⟩, by decide⟩,
    ⟨inv_idleAt _ ⟨by decide, by decide, legal_bal16.2.2⟩, by decide, by decide, by decide, _, rfl,
      ⟨by decide, by decide, ?_, by decide, by decide, ?_, trivial⟩, by decide⟩⟩ <;>
    intro data h <;> first | (cases h; done) | (cases h; intro _; decide)

/-- An APPLY that fails its checks. -/
theorem witness_ApplyRequestsEachRoundOnce :
    let s := idleAt bal16 0x10000
    s.Inv ∧ s.eng.phase = .idle ∧ s.act.inRange s.x.toNat = false ∧ ∃ t, exec (.apply 0) s = .next t :=
  ⟨inv_idleAt _ legal_bal16, by decide, by decide, _, rfl⟩

end Sys2Proof.Tests
end

section
/-! PROOFS. The architectural state after reset (10_state.md R41). -/

namespace Sys2Proof.Machine

/-- CAP as an integer: WIDTH in [7:0] and IFVER = 1 in [15:8] (10_state.md R22); at neither width does the sum leave the
word. -/
@[simp] theorem capWord_toNat (w : Width) : (capWord w).toNat = w.bits + 256 := by
  cases w <;> rfl

/-- A read of CAP depends on the width alone, in every state (10_state.md R22). -/
theorem readReg_cap_toNat (s : State) : (readReg .cap s).toNat = s.width.bits + 256 := capWord_toNat s.width

/-- STATUS reads 0 when no command is in flight, no outcome is recorded and the descriptor's copies are 0
(10_state.md R24, R33). -/
theorem readReg_status_eq_zero {s : State} (hphase : s.eng.phase = .idle) (hact : s.act = .reset)
    (hdone : s.done = false) (herr : s.err = false) (hovr : s.ovr = false) (hcode : s.errCode = 0#4) :
    readReg .status s = 0#64 := by
  have hbusy : s.busy = false := by simp [State.busy, hphase]
  rw [readReg, State.statusWord, hact, hdone, herr, hovr, hcode, hbusy]
  decide

/-- STATUS is 0 after reset, whatever the parameters (10_state.md R41). -/
theorem readReg_status_resetWith (w : Width) (p : Bool) : readReg .status (State.resetWith w p) = 0#64 :=
  readReg_status_eq_zero rfl rfl rfl rfl rfl rfl

/-- Settles O7: CAP and STATUS are computed from the state, so their rows of R41's table go through the lemmas on what a read
returns; every other row is a stored field, or BUSY, which the phase IDLE clears. -/
theorem resetStateValues : Obligations.ResetStateValues := by
  unfold Obligations.ResetStateValues
  constructor
  · intro w p
    refine ⟨rfl, rfl, readReg_cap_toNat _, readReg_status_resetWith w p, ?_⟩
    simp [State.busy, State.resetWith, Descriptor.reset, Kind.code, Engine.reset]
  · exact ⟨.w64, true, rfl⟩

end Sys2Proof.Machine
end

section
/-! PROOFS. CONFIGURE: the code its checks report, what it reads and what it writes (41_range_check_configure.md R130 to
R139). -/

namespace Sys2Proof.Machine

/-! ## What CONFIGURE does, once its checks have answered -/

/-- CONFIGURE dropped by an APPLY in progress (40_host_access.md R103). -/
theorem exec_configure_of_busy {s : State} (u : BitVec 56) (h : s.busy = true) :
    exec (.configure u) s = .next { s with ovr := true } := by
  rw [exec, execConfigure, whenIdle_of_busy _ h]

/-- CONFIGURE in IDLE whose checks fail (60_exceptions.md R261). -/
theorem exec_configure_of_error {s : State} {c : ErrorCause} (u : BitVec 56) (h : s.eng.phase = .idle)
    (hv : validate s = .error c) :
    exec (.configure u) s = .next { s with done := false, err := true, ovr := false, errCode := c.code } := by
  have hva : validate (accept s) = .error c := hv
  rw [exec, execConfigure, whenIdle_of_idle _ h, configureCommand, hva]
  exact congrArg _ (fail_of_idle c h)

/-- CONFIGURE in IDLE whose checks pass (60_exceptions.md R262). -/
theorem exec_configure_of_ok {s : State} {d : Descriptor} (u : BitVec 56) (h : s.eng.phase = .idle)
    (hv : validate s = .ok d) :
    exec (.configure u) s =
      .next { s with done := true, err := false, ovr := false, errCode := 0#4, act := d } := by
  have hva : validate (accept s) = .ok d := hv
  rw [exec, execConfigure, whenIdle_of_idle _ h, configureCommand, hva]
  exact congrArg _ (complete_of_idle h)

/-- What CONFIGURE can do: be dropped, report the cause its checks give, or load the descriptor they give. -/
theorem exec_configure_cases {s t : State} {u : BitVec 56} (h : exec (.configure u) s = .next t) :
    (s.eng.phase ≠ .idle ∧ t = { s with ovr := true }) ∨
      (s.eng.phase = .idle ∧ ∃ c, validate s = .error c ∧
        t = { s with done := false, err := true, ovr := false, errCode := c.code }) ∨
      (s.eng.phase = .idle ∧ ∃ d, validate s = .ok d ∧
        t = { s with done := true, err := false, ovr := false, errCode := 0#4, act := d }) := by
  by_cases hidle : s.eng.phase = .idle
  · cases hv : validate s with
    | error c =>
      rw [exec_configure_of_error u hidle hv, Host.Outcome.next.injEq] at h
      exact .inr (.inl ⟨hidle, c, rfl, h.symm⟩)
    | ok d =>
      rw [exec_configure_of_ok u hidle hv, Host.Outcome.next.injEq] at h
      exact .inr (.inr ⟨hidle, d, rfl, h.symm⟩)
  · rw [exec_configure_of_busy u (busy_eq_true hidle), Host.Outcome.next.injEq] at h
    exact .inl ⟨hidle, h.symm⟩

/-! ## The kinds and their codes -/

@[simp] theorem ofCode_code (k : Kind) : Kind.ofCode k.code = some k := by cases k <;> rfl

theorem code_injective : Function.Injective Kind.code :=
  fun k k' h => Option.some.inj (by rw [← ofCode_code, h, ofCode_code])

/-- Only a kind's own code names it (30_encoding.md R75). -/
theorem code_of_ofCode {c : BitVec 3} {k : Kind} (h : Kind.ofCode c = some k) : k.code = c := by
  revert c k; decide

theorem four_le_of_ofCode {c : BitVec 3} (h : Kind.ofCode c = none) : 4 ≤ c.toNat := by
  revert c; decide

/-- CFG.KIND names one of the four kinds, or is reserved (30_encoding.md R75). -/
theorem opKind_cases (s : State) :
    (∃ k : Kind, s.cfgKind = k.code ∧ s.opKind = some k) ∨ (4 ≤ s.cfgKind.toNat ∧ s.opKind = none) := by
  cases h : s.opKind with
  | some k => exact .inl ⟨k, (code_of_ofCode h).symm, rfl⟩
  | none => exact .inr ⟨four_le_of_ofCode h, rfl⟩

/-! ## The code that CONFIGURE's checks report, check by check (41_range_check_configure.md R130 to R136) -/

/-- ERR_CODE as a number for the answer of a check: 0, NONE, when it passes (60_exceptions.md R260). -/
def reportedCode {α : Type} : Except ErrorCause α → Nat
  | .error c => c.code.toNat
  | .ok _ => 0

theorem code_toNat_ne_zero (c : ErrorCause) : c.code.toNat ≠ 0 := by cases c <;> decide

@[simp] theorem reportedCode_error {α : Type} (c : ErrorCause) :
    reportedCode (.error c : Except ErrorCause α) = c.code.toNat := rfl

@[simp] theorem reportedCode_ok {α : Type} (a : α) : reportedCode (.ok a) = 0 := rfl

/-- A check whose condition holds reports its cause before the checks after it. -/
@[simp] theorem reportedCode_check {α : Type} (p : Prop) [Decidable p] (c : ErrorCause) (rest : Except ErrorCause α) :
    reportedCode (if p then .error c else rest) = if p then c.code.toNat else reportedCode rest :=
  apply_ite reportedCode p (.error c) rest

theorem reportedCode_checkBalanced (s : State) :
    reportedCode (checkBalanced s) =
      if s.totalBits.toInt < 0 ∨ (s.width.bits : Int) < s.totalBits.toInt then 4
      else if s.totalBits.toInt % 2 ≠ 0 then 5
      else 0 := by
  simp only [checkBalanced, reportedCode_check]
  rfl

theorem reportedCode_checkUnbalanced (s : State) :
    reportedCode (checkUnbalanced s) =
      if s.totalBits.toInt < 0 ∨ (s.width.bits : Int) < s.totalBits.toInt then 4
      else if s.sourceBits.toInt < 0 ∨ s.targetBits.toInt < 0 then 6
      else if s.totalBits.toInt < s.sourceBits.toInt + s.targetBits.toInt then 7
      else 0 := by
  simp only [checkUnbalanced, reportedCode_check]
  rfl

/-- `MAXS` on exact integers (41_range_check_configure.md R126). -/
theorem maxs_cast (w : Width) : (maxs w : Int) = 2 ^ (w.bits - 1) - 1 := by cases w <;> rfl

theorem reportedCode_checkRadix (s : State) :
    reportedCode (checkRadix s) =
      if sintW s.width s.radixA < 0 ∨ sintW s.width s.radixB < 0 then 8
      else if 2 ^ (s.width.bits - 1) - 1 < sintW s.width s.radixA * sintW s.width s.radixB then 9
      else 0 := by
  simp only [checkRadix, reportedCode_check, maxs_cast]
  rfl

/-- A reserved kind is reported before any other check (41_range_check_configure.md R131). -/
theorem reportedCode_validate_reserved {s : State} (h : s.opKind = none) : reportedCode (validate s) = 2 := by
  simp only [validate, h]
  rfl

/-- The code of one group of checks and then another: the first that is not NONE. -/
def thenCode (first later : Nat) : Nat := if first = 0 then later else first

theorem thenCode_zero (later : Nat) : thenCode 0 later = later := rfl

theorem thenCode_of_ne_zero {n : Nat} (hn : n ≠ 0) (later : Nat) : thenCode n later = n := if_neg hn

/-- The checks that follow a group of checks follow each check of the group. -/
theorem thenCode_check (p : Prop) [Decidable p] {n : Nat} (hn : n ≠ 0) (rest later : Nat) :
    thenCode (if p then n else rest) later = if p then n else thenCode rest later := by
  rw [apply_ite (thenCode · later), thenCode_of_ne_zero hn]

/-- The checks common to the kinds stand around the kind's own (41_range_check_configure.md R130). -/
theorem reportedCode_validate {s : State} {k : Kind} (h : s.opKind = some k) :
    reportedCode (validate s) =
      if s.rounds.toInt < 0 then 3
      else thenCode (reportedCode (checkDomain k s)) (if s.cfgRfsel = false ∧ s.rfPresent = false then 10 else 0) := by
  simp only [validate, h, reportedCode_check]
  cases checkDomain k s with
  | error c =>
    simp only [reportedCode_error, thenCode_of_ne_zero (code_toNat_ne_zero c)]
    rfl
  | ok f =>
    simp only [reportedCode_check, reportedCode_ok, thenCode_zero]
    rfl

/-- A descriptor that passes the checks is valid and forward, and has the staged kind
(41_range_check_configure.md R137). -/
theorem validate_ok_shape {s : State} {d : Descriptor} (h : validate s = .ok d) :
    d.valid = true ∧ d.kind.code = s.cfgKind ∧ d.dir = false := by
  obtain ⟨k, f, hk, -, -, -, rfl⟩ := validate_ok h
  exact ⟨rfl, code_of_ofCode hk, rfl⟩

/-- CONFIGURE in IDLE does what the code of its checks says: with a code it only reports, with none it loads. -/
theorem exec_configure_of_reportedCode {s : State} (u : BitVec 56) (h : s.eng.phase = .idle) :
    (reportedCode (validate s) ≠ 0 → exec (.configure u) s =
      .next { s with
        done := false, err := true, ovr := false, errCode := BitVec.ofNat 4 (reportedCode (validate s)) }) ∧
    (reportedCode (validate s) = 0 → ∃ d : Descriptor, d.valid = true ∧ d.kind.code = s.cfgKind ∧ d.dir = false ∧
      exec (.configure u) s =
        .next { s with done := true, err := false, ovr := false, errCode := 0#4, act := d }) := by
  cases hv : validate s with
  | error c =>
    refine ⟨fun _ => ?_, fun h0 => absurd h0 (code_toNat_ne_zero c)⟩
    rw [exec_configure_of_error u h hv, reportedCode_error, BitVec.ofNat_toNat, BitVec.setWidth_eq]
  | ok d =>
    obtain ⟨hvalid, hkind, hdir⟩ := validate_ok_shape hv
    exact ⟨fun hne => absurd rfl hne, fun _ => ⟨d, hvalid, hkind, hdir, exec_configure_of_ok u h hv⟩⟩

/-- Settles O21: the if-chain of R130's order is the code the checks report, kind by kind; what CONFIGURE then does depends on
that code alone. -/
theorem configureReportsFirstFailure : Obligations.ConfigureReportsFirstFailure := by
  unfold Obligations.ConfigureReportsFirstFailure
  intro s u hidle k T a b code
  have hcode : code = reportedCode (validate s) := by
    rcases opKind_cases s with ⟨kind, hk, hop⟩ | ⟨hge, hnone⟩
    · rw [reportedCode_validate hop]
      have hkn : k = kind.code.toNat := congrArg BitVec.toNat hk
      cases kind with
      | balanced =>
        rw [checkDomain, reportedCode_checkBalanced]
        simp [code, T, hkn, Kind.code, thenCode_check, thenCode_zero]
      | unbalanced =>
        rw [checkDomain, reportedCode_checkUnbalanced]
        simp [code, T, hkn, Kind.code, thenCode_check, thenCode_zero]
      | fe1 =>
        rw [checkDomain, reportedCode_checkRadix]
        simp [code, a, b, hkn, Kind.code, thenCode_check, thenCode_zero]
      | fe2 =>
        rw [checkDomain, reportedCode_checkRadix]
        simp [code, a, b, hkn, Kind.code, thenCode_check, thenCode_zero]
    · rw [reportedCode_validate_reserved hnone]
      exact if_pos hge
  rw [hcode]
  exact exec_configure_of_reportedCode u hidle

/-! ## What CONFIGURE reads and writes (41_range_check_configure.md R139) -/

/-- A state with STATUS's outcome and the active descriptor of another: all that CONFIGURE may write. -/
def State.withOutcome (s r : State) : State :=
  { s with done := r.done, err := r.err, ovr := r.ovr, errCode := r.errCode, act := r.act }

/-- CONFIGURE's frame, whatever it answers. -/
theorem exec_configure_frame {s t : State} {u : BitVec 56} (h : exec (.configure u) s = .next t) :
    t = s.withOutcome t := by
  rcases exec_configure_cases h with ⟨-, rfl⟩ | ⟨-, c, -, rfl⟩ | ⟨-, d, -, rfl⟩ <;> rfl

/-- What CONFIGURE writes depends on the phase and the answer of the checks: whatever else differs between two states, here
expressed by a change `f` that leaves the outcome and the descriptor alone, CONFIGURE does the same. -/
theorem exec_configure_of_unread {s t : State} {u : BitVec 56} (f : State → State)
    (hf : ∀ r, f (s.withOutcome r) = (f s).withOutcome r) (heng : (f s).eng = s.eng)
    (hv : validate (f s) = validate s) (h : exec (.configure u) s = .next t) :
    exec (.configure u) (f s) = .next (f t) := by
  have hfs : f s = (f s).withOutcome s := hf s
  rw [exec_configure_frame h, hf]
  rcases exec_configure_cases h with ⟨hbusy, rfl⟩ | ⟨hidle, c, hc, rfl⟩ | ⟨hidle, d, hd, rfl⟩
  · rw [exec_configure_of_busy u (busy_eq_true (by rwa [heng]))]
    exact congrArg (fun r => Host.Outcome.next { r with ovr := true }) hfs
  · rw [exec_configure_of_error u (by rwa [heng]) (hv.trans hc)]
    exact congrArg
      (fun r => Host.Outcome.next { r with done := false, err := true, ovr := false, errCode := c.code }) hfs
  · exact exec_configure_of_ok u (by rwa [heng]) (hv.trans hd)

/-- A state with other operands for the checks of the domain. -/
def State.withDomainOperands (s : State) (T S TG : BitVec 32) (a b : Word) : State :=
  { s with totalBits := T, sourceBits := S, targetBits := TG, radixA := a, radixB := b }

/-- A change of the domain's operands is not seen when the checks of the staged kind do not see it. -/
theorem validate_of_checkDomain_eq (s : State) (T S TG : BitVec 32) (a b : Word)
    (hdom : ∀ k : Kind, s.cfgKind = k.code → checkDomain k (s.withDomainOperands T S TG a b) = checkDomain k s) :
    validate (s.withDomainOperands T S TG a b) = validate s := by
  rcases opKind_cases s with ⟨k, hk, hop⟩ | ⟨-, hop⟩
  · have hop' : (s.withDomainOperands T S TG a b).opKind = some k := hop
    simp only [validate, hop, hop', hdom k hk]
    rfl
  · have hop' : (s.withDomainOperands T S TG a b).opKind = none := hop
    simp only [validate, hop, hop']

/-- Settles O22: the answer of the checks is the same after a change of registers that the staged kind does not use. -/
theorem configureReadsOnlyItsOperands : Obligations.ConfigureReadsOnlyItsOperands := by
  unfold Obligations.ConfigureReadsOnlyItsOperands
  intro s t u T S TG a b x y h
  refine ⟨exec_configure_frame h, ?_, fun hk => ?_, fun hk => ?_, fun hk => ?_⟩
  · exact exec_configure_of_unread (fun r => { r with x := x, y := y }) (fun _ => rfl) rfl rfl h
  · refine exec_configure_of_unread (fun r => { r with sourceBits := S, targetBits := TG, radixA := a, radixB := b })
      (fun _ => rfl) rfl (validate_of_checkDomain_eq s s.totalBits S TG a b fun k hc => ?_) h
    obtain rfl : k = .balanced := code_injective (hc.symm.trans hk)
    rfl
  · refine exec_configure_of_unread (fun r => { r with radixA := a, radixB := b })
      (fun _ => rfl) rfl (validate_of_checkDomain_eq s s.totalBits s.sourceBits s.targetBits a b fun k hc => ?_) h
    obtain rfl : k = .unbalanced := code_injective (hc.symm.trans hk)
    rfl
  · refine exec_configure_of_unread (fun r => { r with totalBits := T, sourceBits := S, targetBits := TG })
      (fun _ => rfl) rfl (validate_of_checkDomain_eq s T S TG s.radixA s.radixB fun k hc => ?_) h
    rcases hk with hk | hk
    · obtain rfl : k = .fe1 := code_injective (hc.symm.trans hk)
      rfl
    · obtain rfl : k = .fe2 := code_injective (hc.symm.trans hk)
      rfl

end Sys2Proof.Machine
end

section
/-! PROOFS. The domain of a descriptor and the range check (41_range_check_configure.md R122 to R124). -/

namespace Sys2Proof.Machine

theorem max_of_bitDomain {d : Descriptor} (h : d.kind = .balanced ∨ d.kind = .unbalanced) :
    d.max = 2 ^ d.totalBits.toNat - 1 := by
  obtain h | h := h <;> simp only [Descriptor.max, h]

theorem max_of_radixDomain {d : Descriptor} (h : d.kind = .fe1 ∨ d.kind = .fe2) :
    d.max = d.radixA.toNat * d.radixB.toNat - 1 := by
  obtain h | h := h <;> simp only [Descriptor.max, h]

/-- The range check as R124 writes it. -/
theorem inRange_iff_le_max (d : Descriptor) (x : Nat) : d.inRange x = true ↔ (x : Int) ≤ d.max := by
  rw [Descriptor.inRange, decide_eq_true_iff]

theorem inRange_iff_of_bitDomain {d : Descriptor} (h : d.kind = .balanced ∨ d.kind = .unbalanced) (x : Nat) :
    d.inRange x = true ↔ x < 2 ^ d.totalBits.toNat := by
  rw [inRange_iff_le_max, max_of_bitDomain h, Int.le_sub_one_iff]
  exact_mod_cast Iff.rfl

theorem inRange_iff_of_radixDomain {d : Descriptor} (h : d.kind = .fe1 ∨ d.kind = .fe2) (x : Nat) :
    d.inRange x = true ↔ x < d.radixA.toNat * d.radixB.toNat := by
  rw [inRange_iff_le_max, max_of_radixDomain h, Int.le_sub_one_iff]
  exact_mod_cast Iff.rfl

/-- A radix of 0 leaves no value in the domain (41_range_check_configure.md R123). -/
theorem inRange_of_zero_radix {d : Descriptor} (h : d.kind = .fe1 ∨ d.kind = .fe2)
    (h0 : d.radixA = 0#64 ∨ d.radixB = 0#64) (x : Nat) : d.inRange x = false := by
  rw [Bool.eq_false_iff, Ne, inRange_iff_of_radixDomain h]
  obtain h0 | h0 := h0 <;> simp [h0]

/-- The domain size of a legal radix descriptor is at most `MAXS` (41_range_check_configure.md R126). -/
theorem Descriptor.Legal.radix_mul_le_maxs {w : Width} {d : Descriptor} (hl : d.Legal w)
    (h : d.kind = .fe1 ∨ d.kind = .fe2) : d.radixA.toNat * d.radixB.toNat ≤ maxs w := by
  obtain ⟨-, -, hk⟩ := hl
  obtain h | h := h <;> rw [h] at hk <;> obtain ⟨-, -, -, -, -, hmul⟩ := hk <;> exact hmul

/-- Settles O24: each kind's range check is a strict bound by the domain size; for a radix domain that size is at most `MAXS`,
so bit W-1 of a value in it is 0. -/
theorem domainBounds : Obligations.DomainBounds := by
  unfold Obligations.DomainBounds
  intro w d x hl
  constructor
  · intro hk
    have hlt := inRange_iff_of_bitDomain hk x
    refine ⟨max_of_bitDomain hk, inRange_iff_le_max d x, hlt, hlt.trans ?_⟩
    rw [Nat.shiftRight_eq_div_pow, Nat.div_eq_zero_iff_lt (by positivity)]
  · intro hk
    have hlt := inRange_iff_of_radixDomain hk x
    refine ⟨max_of_radixDomain hk, inRange_iff_le_max d x, hlt, fun h0 => inRange_of_zero_radix hk h0 x, fun hx => ?_⟩
    calc x < d.radixA.toNat * d.radixB.toNat := hlt.1 hx
      _ ≤ maxs w := hl.radix_mul_le_maxs hk
      _ < 2 ^ (w.bits - 1) := maxs_lt w

end Sys2Proof.Machine
end

section
/-! PROOFS. One round of an APPLY as mathematics: `arg`, `upd` and the range of the working value, by kind and direction
(42_round_function_apply.md R164; 43_bit_domain.md R185 to R187; 44_numeric.md R212 to R222). -/

namespace Sys2Proof.Machine

theorem kind_cases (d : Descriptor) : (d.kind = .balanced ∨ d.kind = .unbalanced) ∨ d.kind = .fe1 ∨ d.kind = .fe2 := by
  cases d.kind <;> simp

theorem ne_fe2_of_bitDomain {d : Descriptor} (hk : d.kind = .balanced ∨ d.kind = .unbalanced) : d.kind ≠ .fe2 := by
  obtain hk | hk := hk <;> simp [hk]

/-! ## The per-kind functions, one equation for each construction and direction -/

section equations
variable {d : Descriptor}

theorem arg_bitForward (hk : d.kind = .balanced ∨ d.kind = .unbalanced) (hd : d.dir = false) (i : Nat) (st : Work) :
    d.arg i st = bitArgForward (d.widths i).2 st.ws := by
  obtain hk | hk := hk <;> simp only [Descriptor.arg, hk, hd]

theorem arg_bitReverse (hk : d.kind = .balanced ∨ d.kind = .unbalanced) (hd : d.dir = true) (i : Nat) (st : Work) :
    d.arg i st = bitArgReverse (d.widths i).1 d.null st.ws := by
  obtain hk | hk := hk <;> simp only [Descriptor.arg, hk, hd]

theorem arg_fe1Forward (hk : d.kind = .fe1) (hd : d.dir = false) (i : Nat) (st : Work) :
    d.arg i st = fe1ArgForward d.radixB.toNat st.ws := by
  simp only [Descriptor.arg, hk, hd]

theorem arg_fe1Reverse (hk : d.kind = .fe1) (hd : d.dir = true) (i : Nat) (st : Work) :
    d.arg i st = fe1ArgReverse d.radixA.toNat st.ws := by
  simp only [Descriptor.arg, hk, hd]

theorem arg_fe2Forward (hk : d.kind = .fe2) (hd : d.dir = false) (i : Nat) (st : Work) : d.arg i st = st.r := by
  simp only [Descriptor.arg, hk, hd]

theorem arg_fe2Reverse (hk : d.kind = .fe2) (hd : d.dir = true) (i : Nat) (st : Work) : d.arg i st = st.l := by
  simp only [Descriptor.arg, hk, hd]

theorem upd_bitForward (hk : d.kind = .balanced ∨ d.kind = .unbalanced) (hd : d.dir = false) (i : Nat) (st : Work)
    (F : Int) :
    d.upd i st F = { st with ws := bitUpdForward (d.widths i).1 d.null (d.widths i).2 st.ws F } := by
  obtain hk | hk := hk <;> simp only [Descriptor.upd, hk, hd]

theorem upd_bitReverse (hk : d.kind = .balanced ∨ d.kind = .unbalanced) (hd : d.dir = true) (i : Nat) (st : Work)
    (F : Int) :
    d.upd i st F = { st with ws := bitUpdReverse (d.widths i).1 d.null (d.widths i).2 st.ws F } := by
  obtain hk | hk := hk <;> simp only [Descriptor.upd, hk, hd]

theorem upd_fe1Forward (hk : d.kind = .fe1) (hd : d.dir = false) (i : Nat) (st : Work) (F : Int) :
    d.upd i st F = { st with ws := fe1UpdForward d.radixA.toNat d.radixB.toNat st.ws F } := by
  simp only [Descriptor.upd, hk, hd]

theorem upd_fe1Reverse (hk : d.kind = .fe1) (hd : d.dir = true) (i : Nat) (st : Work) (F : Int) :
    d.upd i st F = { st with ws := fe1UpdReverse d.radixA.toNat d.radixB.toNat st.ws F } := by
  simp only [Descriptor.upd, hk, hd]

theorem upd_fe2Forward (hk : d.kind = .fe2) (hd : d.dir = false) (i : Nat) (st : Work) (F : Int) :
    d.upd i st F = { st with l := st.r, r := floorMod (st.l + F) (d.modulus i) } := by
  simp only [Descriptor.upd, fe2UpdForward, hk, hd]

theorem upd_fe2Reverse (hk : d.kind = .fe2) (hd : d.dir = true) (i : Nat) (st : Work) (F : Int) :
    d.upd i st F = { st with l := floorMod (st.r - F) (d.modulus i), r := st.l } := by
  simp only [Descriptor.upd, fe2UpdReverse, hk, hd]

theorem init_of_ne_fe2 (hk : d.kind ≠ .fe2) (st : Work) (x : Nat) : d.init st x = { st with ws := x } := by
  unfold Descriptor.init
  split <;> simp_all

theorem init_fe2Forward (hk : d.kind = .fe2) (hd : d.dir = false) (st : Work) (x : Nat) :
    d.init st x = { st with l := x / d.radixB.toNat, r := x % d.radixB.toNat } := by
  simp only [Descriptor.init, hk, hd]

theorem init_fe2Reverse (hk : d.kind = .fe2) (hd : d.dir = true) (st : Work) (x : Nat) :
    d.init st x = { st with l := x / d.finalModulus, r := x % d.finalModulus } := by
  simp only [Descriptor.init, hk, hd]

theorem fin_of_ne_fe2 (hk : d.kind ≠ .fe2) (st : Work) : d.fin st = st.ws := by
  unfold Descriptor.fin
  split <;> simp_all

theorem fin_fe2Forward (hk : d.kind = .fe2) (hd : d.dir = false) (st : Work) :
    d.fin st = d.finalModulus * st.l + st.r := by
  simp only [Descriptor.fin, hk, hd]

theorem fin_fe2Reverse (hk : d.kind = .fe2) (hd : d.dir = true) (st : Work) :
    d.fin st = d.radixB.toNat * st.l + st.r := by
  simp only [Descriptor.fin, hk, hd]

end equations

/-! ## FE2's moduli (44_numeric.md R219) -/

theorem modulus_add_two (d : Descriptor) (i : Nat) : d.modulus (i + 2) = d.modulus i := by
  simp [Descriptor.modulus, fe2Modulus]

theorem modulus_zero (d : Descriptor) : d.modulus 0 = d.radixA.toNat := rfl

theorem modulus_one (d : Descriptor) : d.modulus 1 = d.radixB.toNat := rfl

/-- Adjacent rounds use both radices. -/
theorem modulus_mul_succ (d : Descriptor) (i : Nat) :
    d.modulus i * d.modulus (i + 1) = d.radixA.toNat * d.radixB.toNat := by
  rcases Nat.mod_two_eq_zero_or_one i with h | h
  · simp [Descriptor.modulus, fe2Modulus, h, Nat.add_mod]
  · simp [Descriptor.modulus, fe2Modulus, h, Nat.add_mod, Nat.mul_comm]

/-- The final modulus is that of the round after the last one. -/
theorem finalModulus_eq (d : Descriptor) : d.finalModulus = d.modulus (d.rounds.toNat + 1) := by
  rcases Nat.mod_two_eq_zero_or_one d.rounds.toNat with h | h <;>
    simp [Descriptor.finalModulus, fe2Final, Descriptor.modulus, fe2Modulus, h, Nat.add_mod]

theorem finalModulus_eq_ite (d : Descriptor) :
    d.finalModulus = if d.rounds.toNat % 2 = 1 then d.radixA.toNat else d.radixB.toNat := by
  rcases Nat.mod_two_eq_zero_or_one d.rounds.toNat with h | h <;> simp [Descriptor.finalModulus, fe2Final, h]

theorem modulus_le_maxs {w : Width} {d : Descriptor} (hl : d.Legal w) (hk : d.kind = .fe2) (i : Nat) :
    d.modulus i ≤ maxs w := by
  obtain ⟨-, -, hfields⟩ := hl
  rw [hk] at hfields
  obtain ⟨-, -, -, ha, hb, -⟩ := hfields
  unfold Descriptor.modulus fe2Modulus
  split
  · exact ha
  · exact hb

/-! ## The bit-domain's widths -/

theorem Descriptor.Legal.split_le {w : Width} {d : Descriptor} (hl : d.Legal w)
    (hk : d.kind = .balanced ∨ d.kind = .unbalanced) :
    d.totalBits.toNat ≤ w.bits ∧ d.sourceBits.toNat + d.targetBits.toNat ≤ d.totalBits.toNat := by
  obtain ⟨-, -, hfields⟩ := hl
  obtain hk | hk := hk <;> rw [hk] at hfields
  · obtain ⟨hT, -, hs, ht, -, -⟩ := hfields
    omega
  · obtain ⟨hT, hst, -, -⟩ := hfields
    exact ⟨hT, hst⟩

/-- The top, null and bottom segments of a round make up the whole value. -/
theorem widths_add_null {w : Width} {d : Descriptor} (hl : d.Legal w)
    (hk : d.kind = .balanced ∨ d.kind = .unbalanced) (i : Nat) :
    (d.widths i).1 + d.null + (d.widths i).2 = d.totalBits.toNat := by
  have hsplit := (hl.split_le hk).2
  simp only [Descriptor.widths, Machine.widths, Descriptor.null, nullBits]
  split <;> dsimp only <;> omega

/-! ## The range of the working value, by kind -/

section inRounds
variable {d : Descriptor} (j : Nat) (st : Work)

theorem inRounds_bitDomain (hk : d.kind = .balanced ∨ d.kind = .unbalanced) :
    d.InRounds j st ↔ st.ws < 2 ^ d.totalBits.toNat := by
  rw [← inRange_iff_of_bitDomain hk, inRange_iff_le_max]
  obtain hk | hk := hk <;> simp only [Descriptor.InRounds, hk]

theorem inRounds_fe1 (hk : d.kind = .fe1) : d.InRounds j st ↔ st.ws < d.radixA.toNat * d.radixB.toNat := by
  rw [← inRange_iff_of_radixDomain (.inl hk), inRange_iff_le_max]
  simp only [Descriptor.InRounds, hk]

theorem inRounds_fe2Forward (hk : d.kind = .fe2) (hd : d.dir = false) :
    d.InRounds j st ↔ st.l < d.modulus j ∧ st.r < d.modulus (j + 1) := by
  simp [Descriptor.InRounds, hk, hd]

theorem inRounds_fe2Reverse (hk : d.kind = .fe2) (hd : d.dir = true) :
    d.InRounds j st ↔ st.l < d.modulus (d.rounds.toNat - j) ∧ st.r < d.modulus (d.rounds.toNat - j + 1) := by
  simp [Descriptor.InRounds, hk, hd]

theorem inRounds_of_ne_fe2 (hk : d.kind ≠ .fe2) : d.InRounds j st ↔ d.inRange st.ws = true := by
  rw [inRange_iff_le_max]
  unfold Descriptor.InRounds
  split <;> simp_all

end inRounds

/-! ## A round keeps the range -/

theorem bitUpdForward_lt {p n q ws : Nat} (F : Int) (h : ws < 2 ^ (p + n + q)) :
    bitUpdForward p n q ws F < 2 ^ (p + n + q) := by
  have hB : ws &&& mask q < 2 ^ q := Nat.and_lt_two_pow _ (Nat.sub_lt (by positivity) one_pos)
  have hN : (ws >>> q) &&& mask n < 2 ^ n := Nat.and_lt_two_pow _ (Nat.sub_lt (by positivity) one_pos)
  have hA : ws >>> (n + q) < 2 ^ p := by
    rw [Nat.shiftRight_eq_div_pow]
    exact Nat.div_lt_of_lt_mul (by rwa [← pow_add, show n + q + p = p + n + q by omega])
  have htop := Nat.shiftLeft_lt (m := n + p) hB
  have hmid := Nat.shiftLeft_lt (m := p) hN
  have hbot := Nat.xor_lt_two_pow hA (lowbits_lt F p)
  rw [show q + (n + p) = p + n + q by omega] at htop
  exact Nat.or_lt_two_pow
    (Nat.or_lt_two_pow htop (hmid.trans_le (Nat.pow_le_pow_right two_pos (by omega))))
    (hbot.trans_le (Nat.pow_le_pow_right two_pos (by omega)))

theorem bitUpdReverse_lt {p n q ws : Nat} (F : Int) (h : ws < 2 ^ (p + n + q)) :
    bitUpdReverse p n q ws F < 2 ^ (p + n + q) := by
  have hB : ws >>> (n + p) < 2 ^ q := by
    rw [Nat.shiftRight_eq_div_pow]
    exact Nat.div_lt_of_lt_mul (by rwa [← pow_add, show n + p + q = p + n + q by omega])
  have hN : (ws >>> p) &&& mask n < 2 ^ n := Nat.and_lt_two_pow _ (Nat.sub_lt (by positivity) one_pos)
  have hC : ws &&& mask p < 2 ^ p := Nat.and_lt_two_pow _ (Nat.sub_lt (by positivity) one_pos)
  have htop := Nat.shiftLeft_lt (m := n + q) (Nat.xor_lt_two_pow hC (lowbits_lt F p))
  have hmid := Nat.shiftLeft_lt (m := q) hN
  rw [show p + (n + q) = p + n + q by omega] at htop
  exact Nat.or_lt_two_pow
    (Nat.or_lt_two_pow htop (hmid.trans_le (Nat.pow_le_pow_right two_pos (by omega))))
    (hB.trans_le (Nat.pow_le_pow_right two_pos (by omega)))

theorem fe1UpdForward_lt {a b ws : Nat} (F : Int) (h : ws < a * b) : fe1UpdForward a b ws F < a * b := by
  have hb : 0 < b := Nat.pos_of_mul_pos_left (Nat.zero_lt_of_lt h)
  have ha : 0 < a := Nat.pos_of_mul_pos_right (Nat.zero_lt_of_lt h)
  rw [Nat.mul_comm a b]
  exact Nat.mul_add_lt_mul_of_lt_of_lt (Nat.mod_lt ws hb) (floorMod_lt _ ha)

theorem fe1UpdReverse_lt {a b ws : Nat} (F : Int) (h : ws < a * b) : fe1UpdReverse a b ws F < a * b := by
  have ha : 0 < a := Nat.pos_of_mul_pos_right (Nat.zero_lt_of_lt h)
  exact Nat.mul_add_lt_mul_of_lt_of_lt (floorMod_lt _ ha) (Nat.div_lt_of_lt_mul h)

theorem idx_forward {d : Descriptor} (hd : d.dir = false) (j : Nat) : d.idx j = j := by
  simp [Descriptor.idx, hd]

theorem idx_reverse {d : Descriptor} (hd : d.dir = true) (j : Nat) : d.idx j = d.rounds.toNat - 1 - j := by
  simp [Descriptor.idx, hd]

theorem idx_eq_ite (d : Descriptor) (j : Nat) :
    d.idx j = if d.dir = false then j else d.rounds.toNat - 1 - j := by
  cases hd : d.dir <;> simp [Descriptor.idx, hd]

theorem idx_lt {d : Descriptor} {j : Nat} (hj : j < d.rounds.toNat) : d.idx j < d.rounds.toNat := by
  unfold Descriptor.idx
  split <;> omega

/-- `init` puts a value of the domain in range before the first round. -/
theorem init_inRounds {d : Descriptor} {x : Nat} (st : Work) (hx : d.inRange x = true) :
    d.InRounds 0 (d.init st x) := by
  by_cases hk : d.kind = .fe2
  · rw [inRange_iff_of_radixDomain (.inr hk)] at hx
    cases hd : d.dir with
    | false =>
      rw [inRounds_fe2Forward _ _ hk hd, init_fe2Forward hk hd, modulus_zero, modulus_one]
      exact ⟨Nat.div_lt_of_lt_mul (by rwa [Nat.mul_comm]),
        Nat.mod_lt _ (Nat.pos_of_mul_pos_left (Nat.zero_lt_of_lt hx))⟩
    | true =>
      rw [inRounds_fe2Reverse _ _ hk hd, init_fe2Reverse hk hd, finalModulus_eq, Nat.sub_zero]
      rw [← modulus_mul_succ d d.rounds.toNat] at hx
      exact ⟨Nat.div_lt_of_lt_mul (by rwa [Nat.mul_comm]),
        Nat.mod_lt _ (Nat.pos_of_mul_pos_left (Nat.zero_lt_of_lt hx))⟩
  · rw [inRounds_of_ne_fe2 _ _ hk, init_of_ne_fe2 hk]
    exact hx

/-- A round keeps the working value in range, whatever the response (43_bit_domain.md R187; 44_numeric.md R214, R222). -/
theorem upd_inRounds {w : Width} {d : Descriptor} {j : Nat} {st : Work} (hl : d.Legal w) (hj : j < d.rounds.toNat)
    (h : d.InRounds j st) (F : Int) : d.InRounds (j + 1) (d.upd (d.idx j) st F) := by
  obtain hk | hk | hk := kind_cases d
  · rw [inRounds_bitDomain _ _ hk, ← widths_add_null hl hk (d.idx j)] at *
    cases hd : d.dir with
    | false => rw [upd_bitForward hk hd]; exact bitUpdForward_lt F h
    | true => rw [upd_bitReverse hk hd]; exact bitUpdReverse_lt F h
  · rw [inRounds_fe1 _ _ hk] at *
    cases hd : d.dir with
    | false => rw [upd_fe1Forward hk hd]; exact fe1UpdForward_lt F h
    | true => rw [upd_fe1Reverse hk hd]; exact fe1UpdReverse_lt F h
  · cases hd : d.dir with
    | false =>
      rw [inRounds_fe2Forward _ _ hk hd] at *
      rw [upd_fe2Forward hk hd, idx_forward hd, modulus_add_two]
      exact ⟨h.2, floorMod_lt _ (Nat.zero_lt_of_lt h.1)⟩
    | true =>
      rw [inRounds_fe2Reverse _ _ hk hd] at *
      obtain ⟨hL, hR⟩ := h
      have hpos : d.rounds.toNat - j = d.idx j + 1 := by rw [idx_reverse hd]; omega
      rw [hpos] at hL hR
      rw [modulus_add_two] at hR
      rw [upd_fe2Reverse hk hd, show d.rounds.toNat - (j + 1) = d.idx j by omega]
      exact ⟨floorMod_lt _ (Nat.zero_lt_of_lt hR), hL⟩

theorem roundLoop_inRounds {w : Width} {d : Descriptor} {st : Work} (RF : Nat → Nat → Int) (hl : d.Legal w)
    (h : d.InRounds 0 st) : ∀ {j : Nat}, j ≤ d.rounds.toNat → d.InRounds j (d.roundLoop RF st j)
  | 0, _ => h
  | _ + 1, hj => upd_inRounds hl hj (roundLoop_inRounds RF hl h (Nat.le_of_succ_le hj)) _

/-- After the last round `fin` gives a value of the domain (42_round_function_apply.md R167). -/
theorem fin_inRange {d : Descriptor} {st : Work} (h : d.InRounds d.rounds.toNat st) : d.inRange (d.fin st) = true := by
  by_cases hk : d.kind = .fe2
  · rw [inRange_iff_of_radixDomain (.inr hk)]
    cases hd : d.dir with
    | false =>
      rw [inRounds_fe2Forward _ _ hk hd] at h
      rw [fin_fe2Forward hk hd, finalModulus_eq, ← modulus_mul_succ d d.rounds.toNat]
      exact Nat.mul_add_lt_mul_of_lt_of_lt h.1 h.2
    | true =>
      rw [inRounds_fe2Reverse _ _ hk hd, Nat.sub_self, modulus_zero, modulus_one] at h
      rw [fin_fe2Reverse hk hd]
      exact Nat.mul_add_lt_mul_of_lt_of_lt h.1 h.2
  · rw [inRounds_of_ne_fe2 _ _ hk] at h
    rwa [fin_of_ne_fe2 hk]

/-! ## Only the registers that the kind uses count (10_state.md R35) -/

theorem sameWork_of_ne_fe2 {d : Descriptor} (hk : d.kind ≠ .fe2) (st st' : Work) :
    d.SameWork st st' ↔ st.ws = st'.ws := by
  unfold Descriptor.SameWork
  split <;> simp_all

theorem sameWork_of_fe2 {d : Descriptor} (hk : d.kind = .fe2) (st st' : Work) :
    d.SameWork st st' ↔ st.l = st'.l ∧ st.r = st'.r := by
  simp only [Descriptor.SameWork, hk]

theorem Descriptor.SameWork.trans {d : Descriptor} {a b c : Work} (hab : d.SameWork a b) (hbc : d.SameWork b c) :
    d.SameWork a c := by
  by_cases hk : d.kind = .fe2
  · rw [sameWork_of_fe2 hk] at *
    exact ⟨hab.1.trans hbc.1, hab.2.trans hbc.2⟩
  · rw [sameWork_of_ne_fe2 hk] at *
    exact hab.trans hbc

theorem Descriptor.SameWork.symm {d : Descriptor} {a b : Work} (h : d.SameWork a b) : d.SameWork b a := by
  by_cases hk : d.kind = .fe2
  · rw [sameWork_of_fe2 hk] at *
    exact ⟨h.1.symm, h.2.symm⟩
  · rw [sameWork_of_ne_fe2 hk] at *
    exact Eq.symm h

section sameWork
variable {d : Descriptor} {st st' : Work} (h : d.SameWork st st')
include h

theorem Descriptor.SameWork.inRounds {j : Nat} (hr : d.InRounds j st) : d.InRounds j st' := by
  by_cases hk : d.kind = .fe2
  · rw [sameWork_of_fe2 hk] at h
    simpa only [Descriptor.InRounds, hk, h] using hr
  · rw [sameWork_of_ne_fe2 hk] at h
    rw [inRounds_of_ne_fe2 _ _ hk] at *
    rwa [← h]

theorem Descriptor.SameWork.arg_eq (i : Nat) : d.arg i st = d.arg i st' := by
  by_cases hk : d.kind = .fe2
  · rw [sameWork_of_fe2 hk] at h
    cases hd : d.dir with
    | false => rw [arg_fe2Forward hk hd, arg_fe2Forward hk hd, h.2]
    | true => rw [arg_fe2Reverse hk hd, arg_fe2Reverse hk hd, h.1]
  · rw [sameWork_of_ne_fe2 hk] at h
    unfold Descriptor.arg
    split <;> simp_all

theorem Descriptor.SameWork.upd (i : Nat) (F : Int) : d.SameWork (d.upd i st F) (d.upd i st' F) := by
  obtain hk | hk | hk := kind_cases d
  · have hne := ne_fe2_of_bitDomain hk
    rw [sameWork_of_ne_fe2 hne] at *
    cases hd : d.dir with
    | false => simp only [upd_bitForward hk hd, h]
    | true => simp only [upd_bitReverse hk hd, h]
  · have hne : d.kind ≠ .fe2 := by simp [hk]
    rw [sameWork_of_ne_fe2 hne] at *
    cases hd : d.dir with
    | false => simp only [upd_fe1Forward hk hd, h]
    | true => simp only [upd_fe1Reverse hk hd, h]
  · rw [sameWork_of_fe2 hk] at *
    cases hd : d.dir with
    | false => simp only [upd_fe2Forward hk hd, h, and_self]
    | true => simp only [upd_fe2Reverse hk hd, h, and_self]

theorem Descriptor.SameWork.fin_eq : d.fin st = d.fin st' := by
  by_cases hk : d.kind = .fe2
  · rw [sameWork_of_fe2 hk] at h
    cases hd : d.dir with
    | false => rw [fin_fe2Forward hk hd, fin_fe2Forward hk hd, h.1, h.2]
    | true => rw [fin_fe2Reverse hk hd, fin_fe2Reverse hk hd, h.1, h.2]
  · rw [sameWork_of_ne_fe2 hk] at h
    rw [fin_of_ne_fe2 hk, fin_of_ne_fe2 hk, h]

end sameWork

/-- `init` does not look at the old values of the registers that it writes. -/
theorem init_sameWork (d : Descriptor) (st st' : Work) (x : Nat) : d.SameWork (d.init st x) (d.init st' x) := by
  by_cases hk : d.kind = .fe2
  · rw [sameWork_of_fe2 hk]
    cases hd : d.dir with
    | false => simp only [init_fe2Forward hk hd, and_self]
    | true => simp only [init_fe2Reverse hk hd, and_self]
  · simp only [sameWork_of_ne_fe2 hk, init_of_ne_fe2 hk]

/-! ## The working registers hold the working value -/

/-- The registers that the kind uses are below a bound. -/
def Descriptor.WorkBelow (d : Descriptor) (bound : Nat) (st : Work) : Prop :=
  match d.kind with
  | .balanced | .unbalanced | .fe1 => st.ws < bound
  | .fe2 => st.l < bound ∧ st.r < bound

section workBelow
variable {d : Descriptor} {bound : Nat} {st : Work}

theorem workBelow_of_ne_fe2 (hk : d.kind ≠ .fe2) : d.WorkBelow bound st ↔ st.ws < bound := by
  unfold Descriptor.WorkBelow
  split <;> simp_all

theorem workBelow_of_fe2 (hk : d.kind = .fe2) : d.WorkBelow bound st ↔ st.l < bound ∧ st.r < bound := by
  simp only [Descriptor.WorkBelow, hk]

/-- The value sent to the round function is a register's value or a part of one. -/
theorem Descriptor.WorkBelow.arg_lt (h : d.WorkBelow bound st) (i : Nat) : d.arg i st < bound := by
  obtain hk | hk | hk := kind_cases d
  · have hne := ne_fe2_of_bitDomain hk
    rw [workBelow_of_ne_fe2 hne] at h
    cases hd : d.dir with
    | false => rw [arg_bitForward hk hd]; exact Nat.and_le_left.trans_lt h
    | true => rw [arg_bitReverse hk hd]; exact (Nat.shiftRight_le _ _).trans_lt h
  · have hne : d.kind ≠ .fe2 := by simp [hk]
    rw [workBelow_of_ne_fe2 hne] at h
    cases hd : d.dir with
    | false => rw [arg_fe1Forward hk hd]; exact (Nat.mod_le _ _).trans_lt h
    | true => rw [arg_fe1Reverse hk hd]; exact (Nat.div_le_self _ _).trans_lt h
  · rw [workBelow_of_fe2 hk] at h
    cases hd : d.dir with
    | false => rw [arg_fe2Forward hk hd]; exact h.2
    | true => rw [arg_fe2Reverse hk hd]; exact h.1

end workBelow

/-- In a radix kind, bit W-1 of a working register is 0 (42_round_function_apply.md R154). -/
theorem Descriptor.InRounds.workBelow_of_radix {w : Width} {d : Descriptor} {j : Nat} {st : Work}
    (h : d.InRounds j st) (hl : d.Legal w) (hk : d.kind = .fe1 ∨ d.kind = .fe2) :
    d.WorkBelow (2 ^ (w.bits - 1)) st := by
  obtain hk1 | hk2 := hk
  · rw [inRounds_fe1 _ _ hk1] at h
    rw [workBelow_of_ne_fe2 (by simp [hk1])]
    exact h.trans_le ((hl.radix_mul_le_maxs (.inl hk1)).trans (maxs_lt w).le)
  · have hle (i : Nat) : d.modulus i ≤ 2 ^ (w.bits - 1) := (modulus_le_maxs hl hk2 i).trans (maxs_lt w).le
    rw [workBelow_of_fe2 hk2]
    simp only [Descriptor.InRounds, hk2] at h
    exact ⟨h.1.trans_le (hle _), h.2.trans_le (hle _)⟩

theorem Descriptor.InRounds.workBelow {w : Width} {d : Descriptor} {j : Nat} {st : Work}
    (h : d.InRounds j st) (hl : d.Legal w) : d.WorkBelow (2 ^ w.bits) st := by
  obtain hk | hk := kind_cases d
  · have hne := ne_fe2_of_bitDomain hk
    rw [inRounds_bitDomain _ _ hk] at h
    rw [workBelow_of_ne_fe2 hne]
    exact h.trans_le (Nat.pow_le_pow_right two_pos (hl.split_le hk).1)
  · have hlt := h.workBelow_of_radix hl hk
    have hpow : 2 ^ (w.bits - 1) ≤ 2 ^ w.bits := Nat.pow_le_pow_right two_pos (Nat.sub_le _ _)
    obtain hk1 | hk2 := hk
    · rw [workBelow_of_ne_fe2 (by simp [hk1])] at *
      exact hlt.trans_le hpow
    · rw [workBelow_of_fe2 hk2] at *
      exact ⟨hlt.1.trans_le hpow, hlt.2.trans_le hpow⟩

/-- A value of the domain is a W-bit word. -/
theorem inRange_lt_two_pow {w : Width} {d : Descriptor} {x : Nat} (hl : d.Legal w) (hx : d.inRange x = true) :
    x < 2 ^ w.bits := by
  obtain hk | hk := kind_cases d
  · rw [inRange_iff_of_bitDomain hk] at hx
    exact hx.trans_le (Nat.pow_le_pow_right two_pos (hl.split_le hk).1)
  · rw [inRange_iff_of_radixDomain hk] at hx
    calc x < d.radixA.toNat * d.radixB.toNat := hx
      _ ≤ maxs w := hl.radix_mul_le_maxs hk
      _ ≤ 2 ^ (w.bits - 1) := (maxs_lt w).le
      _ ≤ 2 ^ w.bits := Nat.pow_le_pow_right two_pos (Nat.sub_le _ _)

/-- Writing back a working value in range loses nothing of it. -/
theorem setWork_sameWork {d : Descriptor} {j : Nat} {st : Work} (s : State) (hl : d.Legal s.width)
    (h : d.InRounds j st) : d.SameWork (s.setWork st).eng.work st := by
  have hlt := h.workBelow hl
  by_cases hk : d.kind = .fe2
  · rw [workBelow_of_fe2 hk] at hlt
    rw [sameWork_of_fe2 hk]
    exact ⟨zextTo_toNat_of_lt hlt.1, zextTo_toNat_of_lt hlt.2⟩
  · rw [workBelow_of_ne_fe2 hk] at hlt
    rw [sameWork_of_ne_fe2 hk]
    exact zextTo_toNat_of_lt hlt

end Sys2Proof.Machine
end

section
/-! PROOFS. The engine's own step in phase RUN: a round with the built-in round function, the request of a round, and the
completing step (42_round_function_apply.md R154, R162, R166). -/

namespace Sys2Proof.Machine

section inv
variable {s : State} (hinv : s.Inv)
include hinv

/-- A descriptor that CONFIGURE has loaded is legal. -/
theorem State.Inv.legal_of_valid (hvalid : s.act.valid = true) : s.act.Legal s.width := by
  refine hinv.actOk.resolve_right fun hreset => ?_
  rw [hreset] at hvalid
  cases hvalid

/-- While an APPLY executes, its descriptor is legal. -/
theorem State.Inv.act_legal (hbusy : s.eng.phase ≠ .idle) : s.act.Legal s.width :=
  hinv.legal_of_valid (hinv.busyOk hbusy).1

theorem State.Inv.j_lt_rounds (hbusy : s.eng.phase ≠ .idle) (hj : s.eng.j ≠ s.act.rounds) :
    s.eng.j.toNat < s.act.rounds.toNat :=
  lt_of_le_of_ne (hinv.busyOk hbusy).2.1 fun h => hj (BitVec.eq_of_toNat_eq h)

theorem State.Inv.inRounds (hbusy : s.eng.phase ≠ .idle) : s.act.InRounds s.eng.j.toNat s.eng.work :=
  (hinv.busyOk hbusy).2.2

end inv

/-! ## The built-in round function -/

theorem sintW_truncTo (w : Width) (v : Word) : sintW w (truncTo w v) = sintW w v := by
  cases w with
  | w32 => simp [sintW, truncTo]
  | w64 => rfl

theorem identityRF_eq_sintW (w : Width) (v : Nat) : identityRF w v = sintW w (BitVec.ofNat 64 v) := sintW_truncTo w _

/-- The built-in round function is the identity below `2^(W-1)`. -/
theorem identityRF_of_lt {w : Width} {v : Nat} (h : v < 2 ^ (w.bits - 1)) : identityRF w v = v := by
  have hv : (zextTo w v).toNat = v :=
    zextTo_toNat_of_lt (h.trans_le (Nat.pow_le_pow_right two_pos (Nat.sub_le _ _)))
  rw [identityRF, sintW_of_lt (hv.symm ▸ h), hv]

/-! ## The start and the end of a round -/

/-- The state in which ENG.I holds the index of the next round. -/
def State.selectRound (s : State) : State :=
  { s with eng := { s.eng with i := BitVec.ofNat 32 (s.act.idx s.eng.j.toNat) } }

theorem startRound_of_builtin {s : State} (h : s.act.rfsel = true) :
    startRound s =
      endRound (identityRF s.width (s.act.arg s.selectRound.eng.i.toNat s.eng.work)) s.selectRound :=
  if_pos h

theorem startRound_of_external {s : State} (h : s.act.rfsel = false) :
    startRound s = sendRequest (s.act.arg s.selectRound.eng.i.toNat s.eng.work) s.selectRound :=
  if_neg (Bool.eq_false_iff.1 h)

theorem selectRound_i_toNat {s : State} (hj : s.eng.j.toNat < s.act.rounds.toNat) :
    s.selectRound.eng.i.toNat = s.act.idx s.eng.j.toNat := by
  rw [State.selectRound, BitVec.toNat_ofNat]
  exact Nat.mod_eq_of_lt ((idx_lt hj).trans (BitVec.isLt _))

/-- The end of round `idx(ENG.J)` leaves `upd` in the working registers that the kind uses. -/
theorem endRound_sameWork {s : State} (hl : s.act.Legal s.width) (hj : s.eng.j.toNat < s.act.rounds.toNat)
    (hi : s.eng.i.toNat = s.act.idx s.eng.j.toNat) (hr : s.act.InRounds s.eng.j.toNat s.eng.work) (F : Int) :
    s.act.SameWork (endRound F s).eng.work (s.act.upd s.eng.i.toNat s.eng.work F) :=
  setWork_sameWork s hl (hi ▸ upd_inRounds hl hj hr F)

theorem endRound_j_toNat {s : State} (hj : s.eng.j.toNat < s.act.rounds.toNat) (F : Int) :
    (endRound F s).eng.j.toNat = s.eng.j.toNat + 1 := by
  have hsum : s.eng.j.toNat + (1#32).toNat < 2 ^ 32 := by
    have := s.act.rounds.isLt
    rw [BitVec.toNat_ofNat]
    omega
  rw [endRound_eng_j, BitVec.toNat_add_of_lt hsum]
  rfl

/-- Settles O28: the round is `endRound` at the round's index with the built-in response, which is the argument itself
where the argument has no bit W-1. -/
theorem runStepBuiltinRound : Obligations.RunStepBuiltinRound := by
  unfold Obligations.RunStepBuiltinRound
  intro s later hagenda hinv hrun hj hsel
  have hbusy : s.eng.phase ≠ .idle := by simp [hrun]
  have hl := hinv.act_legal hbusy
  have hlt := hinv.j_lt_rounds hbusy hj
  have hr := hinv.inRounds hbusy
  have hi := selectRound_i_toNat hlt
  set i := s.selectRound.eng.i with hidef
  set v := s.act.arg i.toNat s.eng.work with hv
  set F := identityRF s.width v with hF
  have hstep : step s = .next { endRound F s.selectRound with agenda := later } := by
    rw [step, hagenda]
    exact congrArg _ ((engineStep_start (s := { s with agenda := later }) hrun hj).trans (startRound_of_builtin hsel))
  refine ⟨i, (endRound F s.selectRound).eng.ws, (endRound F s.selectRound).eng.l, (endRound F s.selectRound).eng.r,
    hstep, hi.trans (idx_eq_ite _ _), F, identityRF_eq_sintW _ _, fun hk => ?_, ?_⟩
  · have hvlt : v < 2 ^ (s.width.bits - 1) := (hr.workBelow_of_radix hl hk).arg_lt _
    exact ⟨hvlt, identityRF_of_lt hvlt⟩
  · exact endRound_sameWork (s := s.selectRound) hl hlt hi hr F

/-! ## The completing step -/

/-- The result that the completing step stores is `fin` of the working value itself. -/
theorem finish_y_toNat {s : State} (hl : s.act.Legal s.width) (hr : s.act.InRounds s.act.rounds.toNat s.eng.work) :
    (finish s).y.toNat = s.act.fin s.eng.work :=
  zextTo_toNat_of_lt (inRange_lt_two_pow hl (fin_inRange hr))

/-- Settles O33: the completing step is `finish`, whose result lies in the domain because the working value after the last
round is in range; the three forms of the result are those of `fin`. -/
theorem completingStepWritesY : Obligations.CompletingStepWritesY := by
  unfold Obligations.CompletingStepWritesY
  intro s later hagenda hinv hrun hj
  have hbusy : s.eng.phase ≠ .idle := by simp [hrun]
  have hr : s.act.InRounds s.act.rounds.toNat s.eng.work := hj ▸ hinv.inRounds hbusy
  have hy := finish_y_toNat (hinv.act_legal hbusy) hr
  have hstep : step s = .next (finish { s with agenda := later }) := by
    rw [step, hagenda]
    exact congrArg _ (engineStep_finish (s := { s with agenda := later }) hrun hj)
  refine ⟨(finish s).y, hstep, hy, ?_, fun hk => ?_, fun hk hd => ?_, fun hk hd => ?_⟩
  · rw [hy]
    exact (inRange_iff_le_max _ _).1 (fin_inRange hr)
  · exact BitVec.eq_of_toNat_eq (hy.trans (fin_of_ne_fe2 hk _))
  · rw [hy, fin_fe2Forward hk hd, finalModulus_eq_ite]
    rfl
  · rw [hy, fin_fe2Reverse hk hd]
    rfl

end Sys2Proof.Machine
end

section
/-! PROOFS. A busy engine: what the other agents' steps leave unchanged while an APPLY executes
(42_round_function_apply.md R152, R156; 40_host_access.md R103). -/

namespace Sys2Proof.Machine

/-- What an APPLY in progress rests on, and the outcome that only its completing step writes. -/
structure State.EngineKept (s t : State) : Prop where
  width : t.width = s.width
  act : t.act = s.act
  eng : t.eng = s.eng
  y : t.y = s.y
  done : t.done = s.done
  err : t.err = s.err
  errCode : t.errCode = s.errCode

theorem engineKept_agenda (s : State) (later : List Event) : s.EngineKept { s with agenda := later } :=
  ⟨rfl, rfl, rfl, rfl, rfl, rfl, rfl⟩

theorem stageReg_engineKept (r : RegName) (data : Word) (s : State) : s.EngineKept (stageReg r data s) := by
  obtain ⟨hact, heng, hy, hdone, herr, -, hcode, hwidth, -, -, -⟩ := stageReg_frame r data s
  exact ⟨hwidth, hact, heng, hy, hdone, herr, hcode⟩

theorem whenIdle_engineKept {s : State} (command : State → State) (hbusy : s.eng.phase ≠ .idle) :
    s.EngineKept (whenIdle command s) := by
  rw [whenIdle_of_busy command (busy_eq_true hbusy)]
  exact ⟨rfl, rfl, rfl, rfl, rfl, rfl, rfl⟩

/-- No host transaction reaches a busy engine: commands are dropped, and the rest reads or stages registers. -/
theorem exec_engineKept {i : Instr} {s t : State} (hbusy : s.eng.phase ≠ .idle) (h : exec i s = .next t) :
    s.EngineKept t := by
  obtain ⟨_, _, -, rfl⟩ | ⟨_, _, _, -, -, rfl⟩ | ⟨_, _, _, -, -, -, rfl⟩ | ⟨_, _, -, -, rfl⟩ | ⟨_, -, rfl⟩ |
    ⟨_, -, rfl⟩ | ⟨_, -, rfl⟩ := exec_cases h
  · exact ⟨rfl, rfl, rfl, rfl, rfl, rfl, rfl⟩
  · exact ⟨rfl, rfl, rfl, rfl, rfl, rfl, rfl⟩
  · exact stageReg_engineKept _ _ _
  all_goals exact whenIdle_engineKept _ hbusy

/-- What a step of a busy machine can do: nothing to the engine, the engine's own step in RUN, the taking of a response in
WAIT, or reset. -/
theorem step_cases_of_busy {s t : State} (hbusy : s.eng.phase ≠ .idle) (h : step s = .next t) :
    s.EngineKept t ∨
      (s.eng.phase = .run ∧ ∃ later, t = engineStep { s with agenda := later }) ∨
      (s.eng.phase = .wait ∧
        ∃ data later, s.agenda = .response data :: later ∧ t = takeResponse data { s with agenda := later }) ∨
      (∃ later, s.agenda = .reset :: later) := by
  have engine_cases (later : List Event) (ht : t = engineStep { s with agenda := later }) :
      s.EngineKept t ∨ (s.eng.phase = .run ∧ ∃ later, t = engineStep { s with agenda := later }) := by
    cases hp : s.eng.phase with
    | idle => exact absurd hp hbusy
    | run => exact .inr ⟨rfl, later, ht⟩
    | wait =>
      have hsame : t = { s with agenda := later } := ht.trans (engineStep_of_wait hp)
      exact .inl (hsame ▸ engineKept_agenda s later)
  obtain ⟨-, ht⟩ | ⟨tx, later, -, hx⟩ | ⟨later, -, ht⟩ | ⟨data, later, ha, ht⟩ | ⟨level, later, -, ht⟩ |
    ⟨later, ha, -⟩ := step_cases h
  · exact (engine_cases s.agenda ht).imp_right .inl
  · obtain ⟨hwidth, hact, heng, hy, hdone, herr, hcode⟩ := exec_engineKept (s := { s with agenda := later }) hbusy hx
    exact .inl ⟨hwidth, hact, heng, hy, hdone, herr, hcode⟩
  · exact (engine_cases later ht).imp_right .inl
  · by_cases hwait : s.eng.phase = .wait
    · exact .inr (.inr (.inl ⟨hwait, data, later, ha, ht⟩))
    · have hsame : t = { s with agenda := later } := ht.trans (takeResponse_ignored data hwait)
      exact .inl (hsame ▸ engineKept_agenda s later)
  · rw [ht]
    exact .inl ⟨rfl, rfl, rfl, rfl, rfl, rfl, rfl⟩
  · exact .inr (.inr (.inr ⟨later, ha⟩))

/-- Settles O32: of the steps of a busy machine only the taking of a response and reset concern the engine in WAIT. -/
theorem onlyResponseOrResetLeavesWait : Obligations.OnlyResponseOrResetLeavesWait := by
  unfold Obligations.OnlyResponseOrResetLeavesWait
  intro s t hwait h
  have hbusy : s.eng.phase ≠ .idle := by simp [hwait]
  obtain hkept | ⟨hrun, -⟩ | ⟨-, data, later, ha, -⟩ | hreset := step_cases_of_busy hbusy h
  · obtain ⟨-, hact, heng, hy, hdone, herr, hcode⟩ := hkept
    exact .inl ⟨heng, busy_eq_true (heng ▸ hbusy), hact, hy, hdone, herr, hcode⟩
  · rw [hwait] at hrun
    cases hrun
  · exact .inr (.inl ⟨data, later, ha⟩)
  · exact .inr (.inr hreset)

end Sys2Proof.Machine
end

section
/-! PROOFS. An APPLY from its accepting step to its completing step, whatever the agents do meanwhile: the progress of the
round ladder against the mathematical round loop, and the requests that it sends (42_round_function_apply.md R155, R160 to
R168). -/

namespace Sys2Proof.Machine

/-! ## Runs of events -/

/-- Every encoding has an effect (30_encoding.md R76), so every transaction answers. -/
theorem exec_answers (i : Instr) (s : State) : ∃ t, exec i s = .next t := by
  cases i <;> exact ⟨_, rfl⟩

theorem step_answers (s : State) : ∃ t, step s = .next t := by
  unfold step
  split
  case h_2 tx later _ => exact exec_answers _ _
  all_goals exact ⟨_, rfl⟩

/-- The state after one event is the step's answer. -/
theorem step_runEvents (e : Event) (s : State) : step { s with agenda := [e] } = .next (runEvents [e] s) := by
  obtain ⟨t, ht⟩ := step_answers { s with agenda := [e] }
  simp only [runEvents, ht]

theorem runEvents_cons (e : Event) (es : List Event) (s : State) :
    runEvents (e :: es) s = runEvents es (runEvents [e] s) := by
  obtain ⟨t, ht⟩ := step_answers { s with agenda := [e] }
  simp only [runEvents, ht]

/-- The request that becomes outstanding between two states, if one does. -/
def newRequest (s t : State) : List (Nat × Nat) :=
  if s.rfRequest.valid = false ∧ t.rfRequest.valid = true then [(t.rfRequest.round.toNat, t.rfRequest.value.toNat)]
  else []

theorem requestsSent_cons (e : Event) (es : List Event) (s : State) :
    requestsSent (e :: es) s = newRequest s (runEvents [e] s) ++ requestsSent es (runEvents [e] s) := rfl

theorem newRequest_of_valid {s : State} (t : State) (h : s.eng.reqValid = true) : newRequest s t = [] :=
  if_neg fun hnew => Bool.false_ne_true (hnew.1.symm.trans h)

theorem newRequest_of_not_valid {t : State} (s : State) (h : t.eng.reqValid = false) : newRequest s t = [] :=
  if_neg fun hnew => Bool.false_ne_true (h.symm.trans hnew.2)

theorem newRequest_of_sent {s t : State} (hs : s.eng.reqValid = false) (ht : t.eng.reqValid = true) :
    newRequest s t = [(t.eng.reqRound.toNat, t.eng.reqValue.toNat)] := if_pos ⟨hs, ht⟩

/-! ## The requests of a descriptor -/

/-- The requests of an APPLY, in their order: one of each round of an external round function, none of the built-in one
(42_round_function_apply.md R154, R155). -/
def Descriptor.requests (d : Descriptor) (RF : Nat → Nat → Int) (st : Work) : List (Nat × Nat) :=
  if d.rfsel = true then []
  else (List.range d.rounds.toNat).map fun j => (d.idx j, d.arg (d.idx j) (d.roundLoop RF st j))

section requests
variable {d : Descriptor} (RF : Nat → Nat → Int) (st : Work)

theorem requests_of_builtin (h : d.rfsel = true) : d.requests RF st = [] := if_pos h

theorem requests_drop {j : Nat} (h : d.rfsel = false) (hj : j < d.rounds.toNat) :
    (d.requests RF st).drop j =
      (d.idx j, d.arg (d.idx j) (d.roundLoop RF st j)) :: (d.requests RF st).drop (j + 1) := by
  rw [Descriptor.requests, if_neg (Bool.eq_false_iff.1 h), List.drop_eq_getElem_cons (by simpa using hj)]
  simp

theorem requests_drop_rounds : (d.requests RF st).drop d.rounds.toNat = [] := by
  unfold Descriptor.requests
  split <;> simp

end requests

/-! ## The progress of an APPLY -/

/-- An APPLY of `d` in progress on an engine of width `w` whose first `j` rounds have led from `st` where the mathematical
round loop leads. -/
structure Progress (w : Width) (d : Descriptor) (RF : Nat → Nat → Int) (st : Work) (j : Nat) (s : State) : Prop where
  width : s.width = w
  act : s.act = d
  busy : s.eng.phase ≠ .idle
  roundsDone : s.eng.j.toNat = j
  le_rounds : j ≤ d.rounds.toNat
  work : d.SameWork s.eng.work (d.roundLoop RF st j)
  requestIffWait : s.eng.reqValid = true ↔ s.eng.phase = .wait
  waitOk : s.eng.phase = .wait → s.RequestOk

/-- The requests that an APPLY with `j` rounds done has still to send: in WAIT, that of round `j` is out already. -/
def requestsLeft (d : Descriptor) (RF : Nat → Nat → Int) (st : Work) (j : Nat) (s : State) : List (Nat × Nat) :=
  (d.requests RF st).drop (if s.eng.phase = .wait then j + 1 else j)

/-- The APPLY of `d` has ended with the result of the mathematical round loop (42_round_function_apply.md R166, R168). -/
structure Completed (d : Descriptor) (RF : Nat → Nat → Int) (st : Work) (s : State) : Prop where
  idle : s.eng.phase = .idle
  y : s.y.toNat = d.fin (d.roundLoop RF st d.rounds.toNat)
  act : s.act = d
  done : s.done = true
  err : s.err = false

/-- What one event does to an APPLY in progress: it goes on or completes, and sends what is missing from the requests left. -/
def Advances (w : Width) (d : Descriptor) (RF : Nat → Nat → Int) (st : Work) (j : Nat) (s t : State) : Prop :=
  (∃ j', Progress w d RF st j' t ∧ newRequest s t ++ requestsLeft d RF st j' t = requestsLeft d RF st j s) ∨
    (Completed d RF st t ∧ newRequest s t = requestsLeft d RF st j s)

theorem requestsLeft_of_wait {d : Descriptor} {s : State} (RF : Nat → Nat → Int) (st : Work) (j : Nat)
    (h : s.eng.phase = .wait) : requestsLeft d RF st j s = (d.requests RF st).drop (j + 1) := by
  rw [requestsLeft, if_pos h]

theorem requestsLeft_of_run {d : Descriptor} {s : State} (RF : Nat → Nat → Int) (st : Work) (j : Nat)
    (h : s.eng.phase = .run) : requestsLeft d RF st j s = (d.requests RF st).drop j := by
  rw [requestsLeft, if_neg (by simp [h])]

section progress
variable {w : Width} {d : Descriptor} {RF : Nat → Nat → Int} {st : Work} {j : Nat} {s t : State}

theorem Progress.of_engineKept (hp : Progress w d RF st j s) (hk : s.EngineKept t) : Progress w d RF st j t where
  width := hk.width.trans hp.width
  act := hk.act.trans hp.act
  busy := hk.eng ▸ hp.busy
  roundsDone := hk.eng ▸ hp.roundsDone
  le_rounds := hp.le_rounds
  work := hk.eng ▸ hp.work
  requestIffWait := hk.eng ▸ hp.requestIffWait
  waitOk := by
    unfold State.RequestOk
    rw [hk.eng, hk.act]
    exact hp.waitOk

theorem Progress.reqValid_of_run (hp : Progress w d RF st j s) (hrun : s.eng.phase = .run) :
    s.eng.reqValid = false := by
  rw [Bool.eq_false_iff, Ne, hp.requestIffWait, hrun]
  decide

theorem Progress.selectRound_i (hp : Progress w d RF st j s) (hj : j < d.rounds.toNat) :
    s.selectRound.eng.i.toNat = d.idx j := by
  rw [selectRound_i_toNat (by rwa [hp.act, hp.roundsDone]), hp.act, hp.roundsDone]

/-- An event that does not reach the engine changes neither the progress nor the requests left. -/
theorem Progress.advances_of_engineKept (hp : Progress w d RF st j s) (hk : s.EngineKept t) :
    Advances w d RF st j s t := by
  have hnew : newRequest s t = [] := by
    cases hv : s.eng.reqValid with
    | true => exact newRequest_of_valid t hv
    | false => exact newRequest_of_not_valid s (by rw [hk.eng, hv])
  refine .inl ⟨j, hp.of_engineKept hk, ?_⟩
  rw [hnew, requestsLeft, requestsLeft, hk.eng, List.nil_append]

section legal
variable (hl : d.Legal w) (h0 : d.InRounds 0 st)
include hl h0

theorem Progress.inRounds (hp : Progress w d RF st j s) : d.InRounds j s.eng.work :=
  hp.work.symm.inRounds (roundLoop_inRounds RF hl h0 hp.le_rounds)

/-- The end of a round whose response is `RF`'s value for that round. -/
theorem Progress.endRound_work (hp : Progress w d RF st j s) (hj : j < d.rounds.toNat)
    (hi : s.eng.i.toNat = d.idx j) {F : Int} (hF : F = RF (d.idx j) (d.arg (d.idx j) s.eng.work)) :
    d.SameWork (endRound F s).eng.work (d.roundLoop RF st (j + 1)) ∧ (endRound F s).eng.j.toNat = j + 1 := by
  have hr := hp.inRounds hl h0
  obtain ⟨rfl, rfl, -, rfl, -, hwork, -, -⟩ := hp
  have hupd := endRound_sameWork hl hj hi hr F
  rw [hi] at hupd
  have hloop : s.act.roundLoop RF st (s.eng.j.toNat + 1) =
      s.act.upd (s.act.idx s.eng.j.toNat) (s.act.roundLoop RF st s.eng.j.toNat) F := by
    rw [Descriptor.roundLoop, hF, hwork.arg_eq]
  exact ⟨hloop ▸ hupd.trans (hwork.upd _ F), endRound_j_toNat hj F⟩

/-- A taken response ends the round that sent the request. -/
theorem Progress.advances_of_response (hp : Progress w d RF st j s) (hwait : s.eng.phase = .wait) {data : Word}
    (hdata : sintW s.width data = RF s.rfRequest.round.toNat s.rfRequest.value.toNat) :
    Advances w d RF st j s (takeResponse data s) := by
  obtain ⟨-, hj, hi, hround, hvalue⟩ := hp.waitOk hwait
  rw [hp.act, hp.roundsDone] at hi
  rw [hp.act, hp.roundsDone] at hj
  rw [State.rfRequest, hround, hvalue, hi, hp.act] at hdata
  obtain ⟨hwork, hdone⟩ := hp.endRound_work hl h0 hj hi hdata
  rw [takeResponse_of_wait data hwait]
  refine .inl ⟨j + 1, ⟨hp.width, hp.act, by simp, hdone, hj, hwork, by simp, by simp⟩, ?_⟩
  rw [newRequest_of_not_valid s rfl, requestsLeft_of_wait RF st j hwait, requestsLeft_of_run RF st (j + 1) rfl,
    List.nil_append]

/-- The start of a round with the built-in round function is the whole round. -/
theorem Progress.advances_of_builtin (hp : Progress w d RF st j s) (hrun : s.eng.phase = .run)
    (hj : j < d.rounds.toNat) (hsel : d.rfsel = true) (hRF : ∀ i v, RF i v = sintW w (BitVec.ofNat 64 v)) :
    Advances w d RF st j s (startRound s) := by
  have hreq := hp.reqValid_of_run hrun
  have hi := hp.selectRound_i hj
  have hp' : Progress w d RF st j s.selectRound :=
    ⟨hp.width, hp.act, hp.busy, hp.roundsDone, hp.le_rounds, hp.work, hp.requestIffWait,
      fun hwait => absurd (hrun.symm.trans hwait) (by decide)⟩
  rw [startRound_of_builtin (hp.act ▸ hsel), hp.act, hp.width, hi]
  obtain ⟨hwork, hdone⟩ := hp'.endRound_work hl h0 hj hi
    (F := identityRF w (d.arg (d.idx j) s.eng.work)) ((identityRF_eq_sintW _ _).trans (hRF _ _).symm)
  refine .inl ⟨j + 1, ⟨hp.width, hp.act, hp.busy, hdone, hj, hwork, hp.requestIffWait,
    fun hwait => absurd (hrun.symm.trans hwait) (by decide)⟩, ?_⟩
  rw [newRequest_of_not_valid (t := endRound _ s.selectRound) s hreq, requestsLeft, requestsLeft,
    requests_of_builtin RF st hsel]
  simp

/-- The start of a round with an external round function sends the request of that round. -/
theorem Progress.advances_of_external (hp : Progress w d RF st j s) (hrun : s.eng.phase = .run)
    (hj : j < d.rounds.toNat) (hsel : d.rfsel = false) : Advances w d RF st j s (startRound s) := by
  have hreq := hp.reqValid_of_run hrun
  have hi := hp.selectRound_i hj
  rw [startRound_of_external (hp.act ▸ hsel), hp.act, hi]
  set t := sendRequest (d.arg (d.idx j) s.eng.work) s.selectRound with ht
  have hvalue : t.eng.reqValue.toNat = d.arg (d.idx j) s.eng.work :=
    zextTo_toNat_of_lt (hp.width ▸ ((hp.inRounds hl h0).workBelow hl).arg_lt _)
  have hround : t.eng.reqRound.toNat = d.idx j := hi
  have hok : t.RequestOk := by
    refine ⟨hp.act ▸ hsel, ?_, ?_, rfl, ?_⟩
    · exact hp.act ▸ hp.roundsDone ▸ hj
    · exact hi.trans (by rw [← hp.act, ← hp.roundsDone]; rfl)
    · exact hvalue.trans (by rw [← hi, ← hp.act]; rfl)
  refine .inl ⟨j, ⟨hp.width, hp.act, by simp [ht], hp.roundsDone, hp.le_rounds, hp.work, by simp [ht],
    fun _ => hok⟩, ?_⟩
  rw [newRequest_of_sent hreq rfl, hround, hvalue, requestsLeft_of_wait RF st j rfl,
    requestsLeft_of_run RF st j hrun, requests_drop RF st hsel hj, hp.work.arg_eq]
  rfl

/-- With every round done, `finish` ends the APPLY with the round loop's result. -/
theorem Progress.completed_of_finish (hp : Progress w d RF st j s) (hj : j = d.rounds.toNat) :
    Completed d RF st (finish s) := by
  have hr := hp.inRounds hl h0
  obtain ⟨rfl, rfl, -, -, -, hwork, -, -⟩ := hp
  subst hj
  exact ⟨rfl, (finish_y_toNat hl hr).trans hwork.fin_eq, rfl, rfl, rfl⟩

/-- The engine's own step in RUN. -/
theorem Progress.advances_of_engineStep (hp : Progress w d RF st j s) (hrun : s.eng.phase = .run)
    (hRF : d.rfsel = true → ∀ i v, RF i v = sintW w (BitVec.ofNat 64 v)) :
    Advances w d RF st j s (engineStep s) := by
  by_cases hj : s.eng.j = s.act.rounds
  · have hjk : j = d.rounds.toNat := by rw [← hp.roundsDone, hj, hp.act]
    rw [engineStep_finish hrun hj]
    refine .inr ⟨hp.completed_of_finish hl h0 hjk, ?_⟩
    rw [newRequest_of_not_valid (t := finish s) s (hp.reqValid_of_run hrun), requestsLeft_of_run RF st j hrun, hjk,
      requests_drop_rounds]
  · have hlt : j < d.rounds.toNat := by
      refine lt_of_le_of_ne hp.le_rounds fun hjk => hj (BitVec.eq_of_toNat_eq ?_)
      rw [hp.roundsDone, hp.act, hjk]
    rw [engineStep_start hrun hj]
    cases hsel : d.rfsel with
    | true => exact hp.advances_of_builtin hl h0 hrun hlt hsel (hRF hsel)
    | false => exact hp.advances_of_external hl h0 hrun hlt hsel

/-- Any event but reset advances an APPLY in progress, if `RF` answers its requests. -/
theorem Progress.advances_of_event (hp : Progress w d RF st j s)
    (hRF : d.rfsel = true → ∀ i v, RF i v = sintW w (BitVec.ofNat 64 v)) {e : Event} (hreset : e ≠ .reset)
    (hdata : ∀ data, e = .response data → s.eng.phase = .wait →
      sintW s.width data = RF s.rfRequest.round.toNat s.rfRequest.value.toNat) :
    Advances w d RF st j s (runEvents [e] s) := by
  have hpa (later : List Event) : Progress w d RF st j { s with agenda := later } :=
    hp.of_engineKept (engineKept_agenda s later)
  obtain hkept | ⟨hrun, later, ht⟩ | ⟨hwait, data, later, ha, ht⟩ | ⟨later, ha⟩ :=
    step_cases_of_busy (s := { s with agenda := [e] }) hp.busy (step_runEvents e s)
  · exact (hpa [e]).advances_of_engineKept hkept
  · rw [ht]
    exact (hpa later).advances_of_engineStep hl h0 hrun hRF
  · rw [ht]
    exact (hpa later).advances_of_response hl h0 hwait (hdata data (List.head_eq_of_cons_eq ha) hwait)
  · exact absurd (List.head_eq_of_cons_eq ha) hreset

/-- An APPLY in progress that `RF` answers until it ends completes with the round loop's result and sends exactly the
requests that were left. -/
theorem Progress.completes (hRF : d.rfsel = true → ∀ i v, RF i v = sintW w (BitVec.ofNat 64 v)) :
    ∀ {es : List Event} {j : Nat} {s : State}, Progress w d RF st j s → AnsweredBy RF es s →
      (runEvents es s).eng.phase = .idle →
      Completed d RF st (runEvents es s) ∧ requestsSent es s = requestsLeft d RF st j s
  | [], _, _, hp, _, hidle => absurd hidle hp.busy
  | e :: es, _, s, hp, hans, hidle => by
    obtain ⟨-, hreset, hdata, hrest⟩ := hans
    rw [runEvents_cons] at hidle ⊢
    rw [requestsSent_cons]
    obtain ⟨j', hp', hleft⟩ | ⟨hdone, hleft⟩ := hp.advances_of_event hl h0 hRF hreset hdata
    · obtain ⟨hdone, hsent⟩ := hp'.completes hRF hrest hidle
      exact ⟨hdone, by rw [hsent, hleft]⟩
    · cases es with
      | nil => exact ⟨hdone, by rw [← hleft]; exact List.append_nil _⟩
      | cons e' es' => exact absurd hdone.idle hrest.1

end legal

end progress

/-! ## The accepting step -/

theorem exec_apply_of_idle {s t : State} {u : BitVec 56} (hidle : s.eng.phase = .idle)
    (h : exec (.apply u) s = .next t) : t = applyCommand (accept s) := by
  rw [exec, execApply, whenIdle_of_idle _ hidle, Host.Outcome.next.injEq] at h
  exact h.symm

theorem State.Inv.reqValid_of_idle {s : State} (hinv : s.Inv) (hidle : s.eng.phase = .idle) :
    s.eng.reqValid = false := by
  rw [Bool.eq_false_iff, Ne, hinv.requestIffWait, hidle]
  decide

/-- An accepted APPLY is in progress with no round done, and every request is still to be sent. -/
theorem apply_progress {s t : State} {u : BitVec 56} (RF : Nat → Nat → Int) (st : Work) (hinv : s.Inv)
    (hidle : s.eng.phase = .idle) (hvalid : s.act.valid = true) (hx : s.act.inRange s.x.toNat = true)
    (h : exec (.apply u) s = .next t) :
    Progress s.width s.act RF (s.act.init st s.x.toNat) 0 t ∧ t.eng.phase = .run := by
  obtain ⟨hv, -⟩ | ⟨-, hr, -⟩ | ⟨-, -, happly⟩ := applyCommand_cases (accept s)
  · exact absurd (hv.symm.trans hvalid) (by decide)
  · exact absurd (hr.symm.trans hx) (by decide)
  · have hwork : s.act.SameWork t.eng.work (s.act.init s.eng.work s.x.toNat) := by
      rw [exec_apply_of_idle hidle h, happly]
      exact setWork_sameWork (accept s) (hinv.legal_of_valid hvalid) (init_inRounds _ hx)
    rw [exec_apply_of_idle hidle h, happly] at *
    exact ⟨⟨rfl, rfl, by simp, rfl, Nat.zero_le _, hwork.trans (init_sameWork _ _ _ _),
      by simp [hinv.reqValid_of_idle hidle], by simp⟩, rfl⟩

/-- An APPLY that fails its checks does not touch the engine. -/
theorem apply_rejected_eng {s t : State} {u : BitVec 56} (hidle : s.eng.phase = .idle)
    (hbad : s.act.valid = false ∨ s.act.inRange s.x.toNat = false) (h : exec (.apply u) s = .next t) :
    t.eng = s.eng := by
  rw [exec_apply_of_idle hidle h]
  obtain ⟨-, happly⟩ | ⟨-, -, happly⟩ | ⟨hv, hr, -⟩ := applyCommand_cases (accept s)
  · rw [happly, fail_of_idle (s := accept s) _ hidle, accept_eng]
  · rw [happly, fail_of_idle (s := accept s) _ hidle, accept_eng]
  · obtain hv' | hr' := hbad
    · exact absurd (hv'.symm.trans hv) (by decide)
    · exact absurd (hr'.symm.trans hr) (by decide)

/-- Settles O56: the accepting step starts the progress of the round loop from `init`, and the run completes it. -/
theorem answeredApplyWritesResult : Obligations.AnsweredApplyWritesResult := by
  unfold Obligations.AnsweredApplyWritesResult
  intro s t u RF es hinv hidle hvalid hx hRF happly hans hend
  obtain ⟨hp, -⟩ := apply_progress RF { ws := 0, l := 0, r := 0 } hinv hidle hvalid hx happly
  obtain ⟨hdone, -⟩ := hp.completes (hinv.legal_of_valid hvalid) (init_inRounds _ hx) hRF hans hend
  exact ⟨hdone.y, hdone.act, hdone.done, hdone.err⟩

/-- Settles O57: at the accepting step every request of the descriptor is left, and the run sends exactly those. -/
theorem applyRequestsEachRoundOnce : Obligations.ApplyRequestsEachRoundOnce := by
  unfold Obligations.ApplyRequestsEachRoundOnce
  intro s t u RF es hinv hidle happly
  constructor
  · intro hvalid hx hRF hans hend
    obtain ⟨hp, hrun⟩ := apply_progress RF s.eng.work hinv hidle hvalid hx happly
    obtain ⟨-, hsent⟩ := hp.completes (hinv.legal_of_valid hvalid) (init_inRounds _ hx) hRF hans hend
    rw [hsent, requestsLeft_of_run RF _ 0 hrun, List.drop_zero, Descriptor.requests]
    simp only [idx_eq_ite]
  · intro hbad
    have heng := apply_rejected_eng hidle hbad happly
    exact ⟨heng, by rw [State.rfRequest, heng]; exact hinv.reqValid_of_idle hidle⟩

end Sys2Proof.Machine
end

section
/-! PROOFS. A bit-domain round on the three fields of the working value: the fields change places and one of them is XORed,
so the two directions undo each other (43_bit_domain.md R185 to R187). -/

namespace Sys2Proof.Machine

/-! ## A working value as its top, null and bottom fields -/

/-- The value whose bottom `q` bits are `B`, whose next `n` bits are `N` and whose upper bits are `A`. -/
def ofFields (n q A N B : Nat) : Nat := A * 2 ^ (n + q) + N * 2 ^ q + B

theorem ofFields_eq_nested (n q A N B : Nat) : ofFields n q A N B = (A * 2 ^ n + N) * 2 ^ q + B := by
  rw [ofFields, pow_add]
  ring

theorem bitUpdForward_eq_or (p n q ws : Nat) (F : Int) :
    bitUpdForward p n q ws F =
      ((ws &&& mask q) <<< (n + p)) ||| (((ws >>> q) &&& mask n) <<< p) ||| ((ws >>> (n + q)) ^^^ lowbits F p) := rfl

theorem bitUpdReverse_eq_or (p n q ws : Nat) (F : Int) :
    bitUpdReverse p n q ws F =
      (((ws &&& mask p) ^^^ lowbits F p) <<< (n + q)) ||| (((ws >>> p) &&& mask n) <<< q) ||| (ws >>> (n + p)) := rfl

section fields
variable {n q A N B : Nat}

theorem ofFields_and_mask (hB : B < 2 ^ q) : ofFields n q A N B &&& mask q = B := by
  rw [mask, Nat.and_two_pow_sub_one_eq_mod, ofFields_eq_nested, Nat.mul_add_mod_of_lt hB]

theorem ofFields_shiftRight (hB : B < 2 ^ q) : ofFields n q A N B >>> q = A * 2 ^ n + N := by
  rw [Nat.shiftRight_eq_div_pow, ofFields_eq_nested, Nat.mul_comm, Nat.mul_add_div (by positivity),
    Nat.div_eq_of_lt hB, Nat.add_zero]

theorem ofFields_shiftRight_and_mask (hN : N < 2 ^ n) (hB : B < 2 ^ q) :
    (ofFields n q A N B >>> q) &&& mask n = N := by
  rw [ofFields_shiftRight hB, mask, Nat.and_two_pow_sub_one_eq_mod, Nat.mul_add_mod_of_lt hN]

theorem ofFields_shiftRight_add (hN : N < 2 ^ n) (hB : B < 2 ^ q) : ofFields n q A N B >>> (n + q) = A := by
  rw [Nat.add_comm n q, Nat.shiftRight_add, ofFields_shiftRight hB, Nat.shiftRight_eq_div_pow, Nat.mul_comm,
    Nat.mul_add_div (by positivity), Nat.div_eq_of_lt hN, Nat.add_zero]

/-- The fields do not overlap, so joining them by OR is adding them. -/
theorem shiftLeft_or_eq_ofFields (hN : N < 2 ^ n) (hB : B < 2 ^ q) :
    (A <<< (n + q)) ||| (N <<< q) ||| B = ofFields n q A N B := by
  rw [Nat.shiftLeft_add, ← Nat.shiftLeft_or_distrib, ← Nat.shiftLeft_add_eq_or_of_lt hN,
    ← Nat.shiftLeft_add_eq_or_of_lt hB, Nat.shiftLeft_eq, Nat.shiftLeft_eq, ofFields_eq_nested]

/-- Every value of `p + n + q` bits has its three fields. -/
theorem exists_ofFields {p ws : Nat} (h : ws < 2 ^ (p + n + q)) :
    ∃ A < 2 ^ p, ∃ N < 2 ^ n, ∃ B < 2 ^ q, ws = ofFields n q A N B := by
  refine ⟨ws / 2 ^ q / 2 ^ n, ?_, ws / 2 ^ q % 2 ^ n, Nat.mod_lt _ (by positivity), ws % 2 ^ q,
    Nat.mod_lt _ (by positivity), ?_⟩
  · rw [Nat.div_div_eq_div_mul, ← pow_add]
    exact Nat.div_lt_of_lt_mul (by rwa [← pow_add, show q + n + p = p + n + q by omega])
  · rw [ofFields_eq_nested, Nat.div_add_mod', Nat.div_add_mod']

end fields

/-! ## A round moves the fields -/

section rounds
variable {p n q A N B : Nat} (F : Int)

theorem bitUpdForward_ofFields (hA : A < 2 ^ p) (hN : N < 2 ^ n) (hB : B < 2 ^ q) :
    bitUpdForward p n q (ofFields n q A N B) F = ofFields n p B N (A ^^^ lowbits F p) := by
  rw [bitUpdForward_eq_or, ofFields_and_mask hB, ofFields_shiftRight_and_mask hN hB, ofFields_shiftRight_add hN hB,
    shiftLeft_or_eq_ofFields hN (Nat.xor_lt_two_pow hA (lowbits_lt F p))]

theorem bitUpdReverse_ofFields {C : Nat} (hB : B < 2 ^ q) (hN : N < 2 ^ n) (hC : C < 2 ^ p) :
    bitUpdReverse p n q (ofFields n p B N C) F = ofFields n q (C ^^^ lowbits F p) N B := by
  rw [bitUpdReverse_eq_or, ofFields_and_mask hC, ofFields_shiftRight_and_mask hN hC, ofFields_shiftRight_add hN hC,
    shiftLeft_or_eq_ofFields hN hB]

/-! ## The two directions undo each other for a fixed response -/

theorem bitUpdReverse_bitUpdForward {ws : Nat} (h : ws < 2 ^ (p + n + q)) :
    bitUpdReverse p n q (bitUpdForward p n q ws F) F = ws := by
  obtain ⟨A, hA, N, hN, B, hB, rfl⟩ := exists_ofFields h
  rw [bitUpdForward_ofFields F hA hN hB, bitUpdReverse_ofFields F hB hN (Nat.xor_lt_two_pow hA (lowbits_lt F p)),
    Nat.xor_xor_cancel_right]

theorem bitUpdForward_bitUpdReverse {ws : Nat} (h : ws < 2 ^ (p + n + q)) :
    bitUpdForward p n q (bitUpdReverse p n q ws F) F = ws := by
  rw [show p + n + q = q + n + p by omega] at h
  obtain ⟨B, hB, N, hN, C, hC, rfl⟩ := exists_ofFields h
  rw [bitUpdReverse_ofFields F hB hN hC, bitUpdForward_ofFields F (Nat.xor_lt_two_pow hC (lowbits_lt F p)) hN hB,
    Nat.xor_xor_cancel_right]

theorem bitUpd_invOn (p n q : Nat) (F : Int) :
    Set.InvOn (fun ws => bitUpdReverse p n q ws F) (fun ws => bitUpdForward p n q ws F)
      (Set.Iio (2 ^ (p + n + q))) (Set.Iio (2 ^ (p + n + q))) :=
  ⟨fun _ => bitUpdReverse_bitUpdForward F, fun _ => bitUpdForward_bitUpdReverse F⟩

end rounds

/-- Settles O44: the two directions map the domain into itself and are each other's two-sided inverse there. -/
theorem bitRoundsAreBijections : Obligations.BitRoundsAreBijections := by
  unfold Obligations.BitRoundsAreBijections
  intro p n q F
  have hforward := (bitUpd_invOn p n q F).bijOn (fun _ => bitUpdForward_lt F) (fun _ => bitUpdReverse_lt F)
  exact ⟨hforward, hforward.symm (bitUpd_invOn p n q F).symm⟩

end Sys2Proof.Machine
end

section
/-! PROOFS. An APPLY without rounds: `fin` gives back what `init` took apart (43_bit_domain.md R188;
44_numeric.md R215, R223). -/

namespace Sys2Proof.Machine

theorem finalModulus_of_zero_rounds {d : Descriptor} (h : d.rounds = 0#32) : d.finalModulus = d.radixB.toNat := by
  simp [Descriptor.finalModulus, fe2Final, h]

/-- With no rounds FE2 joins the pair with the modulus that split it, in both directions. -/
theorem fin_init_of_zero_rounds {d : Descriptor} (h : d.rounds = 0#32) (st : Work) (x : Nat) :
    d.fin (d.init st x) = x := by
  by_cases hk : d.kind = .fe2
  · cases hd : d.dir with
    | false =>
      rw [init_fe2Forward hk hd, fin_fe2Forward hk hd, finalModulus_of_zero_rounds h]
      exact Nat.div_add_mod x _
    | true =>
      rw [init_fe2Reverse hk hd, fin_fe2Reverse hk hd, finalModulus_of_zero_rounds h]
      exact Nat.div_add_mod x _
  · rw [init_of_ne_fe2 hk, fin_of_ne_fe2 hk]

theorem applyFn_of_zero_rounds {d : Descriptor} (h : d.rounds = 0#32) (RF : Nat → Nat → Int) (x : Nat) :
    d.applyFn RF x = d.fin (d.init { ws := 0, l := 0, r := 0 } x) := by
  rw [Descriptor.applyFn, h, BitVec.toNat_zero, Descriptor.roundLoop]

/-- Settles O51: with no rounds APPLY is `fin` of `init`. -/
theorem zeroRoundsIsIdentity : Obligations.ZeroRoundsIsIdentity := by
  unfold Obligations.ZeroRoundsIsIdentity
  intro w d RF x _ hrounds _
  rw [applyFn_of_zero_rounds hrounds, fin_init_of_zero_rounds hrounds]

end Sys2Proof.Machine
end

section
/-! PROOFS. An FE1 round on the two digits of the working value: forward takes it in base `b` and puts it together in base
`a`, with the response added to one digit; in reverse the other way round (44_numeric.md R212 to R214). -/

namespace Sys2Proof.Machine

/-! ## A round on a pair of digits -/

theorem exists_digits {a b ws : Nat} (h : ws < a * b) : ∃ l < a, ∃ r < b, ws = b * l + r := by
  have hb : 0 < b := Nat.pos_of_mul_pos_left (Nat.zero_lt_of_lt h)
  exact ⟨ws / b, Nat.div_lt_of_lt_mul (h.trans_eq (Nat.mul_comm a b)), ws % b, Nat.mod_lt ws hb, (Nat.div_add_mod ws b).symm⟩

section digits
variable {a b l r v : Nat}

theorem digits_div (l : Nat) (hr : r < b) : (b * l + r) / b = l := by
  rw [Nat.mul_add_div (Nat.zero_lt_of_lt hr), Nat.div_eq_of_lt hr, Nat.add_zero]

theorem digits_mod (l : Nat) (hr : r < b) : (b * l + r) % b = r := by
  rw [Nat.mul_add_mod, Nat.mod_eq_of_lt hr]

theorem fe1ArgForward_digits (l : Nat) (hr : r < b) : fe1ArgForward b (b * l + r) = r := digits_mod l hr

theorem fe1ArgReverse_digits (r : Nat) (hv : v < a) : fe1ArgReverse a (a * r + v) = r := digits_div r hv

theorem fe1UpdForward_digits (a l : Nat) (F : Int) (hr : r < b) :
    fe1UpdForward a b (b * l + r) F = a * r + floorMod (l + F) a := by
  rw [fe1UpdForward, digits_div l hr, digits_mod l hr]

theorem fe1UpdReverse_digits (b r : Nat) (F : Int) (hv : v < a) :
    fe1UpdReverse a b (a * r + v) F = b * floorMod (v - F) a + r := by
  rw [fe1UpdReverse, digits_div r hv, digits_mod r hv]

end digits

/-! ## The two directions send the same value, and undo each other for a fixed response -/

section rounds
variable {a b ws : Nat} (F : Int)

theorem fe1ArgReverse_fe1UpdForward (h : ws < a * b) :
    fe1ArgReverse a (fe1UpdForward a b ws F) = fe1ArgForward b ws := by
  obtain ⟨l, hl, r, hr, rfl⟩ := exists_digits h
  rw [fe1UpdForward_digits a l F hr, fe1ArgReverse_digits r (floorMod_lt _ (Nat.zero_lt_of_lt hl)),
    fe1ArgForward_digits l hr]

theorem fe1ArgForward_fe1UpdReverse (h : ws < a * b) :
    fe1ArgForward b (fe1UpdReverse a b ws F) = fe1ArgReverse a ws := by
  obtain ⟨r, hr, v, hv, rfl⟩ := exists_digits (h.trans_eq (Nat.mul_comm a b))
  rw [fe1UpdReverse_digits b r F hv, fe1ArgForward_digits _ hr, fe1ArgReverse_digits r hv]

theorem fe1UpdReverse_fe1UpdForward (h : ws < a * b) : fe1UpdReverse a b (fe1UpdForward a b ws F) F = ws := by
  obtain ⟨l, hl, r, hr, rfl⟩ := exists_digits h
  rw [fe1UpdForward_digits a l F hr, fe1UpdReverse_digits b r F (floorMod_lt _ (Nat.zero_lt_of_lt hl)),
    floorMod_add_sub F hl]

theorem fe1UpdForward_fe1UpdReverse (h : ws < a * b) : fe1UpdForward a b (fe1UpdReverse a b ws F) F = ws := by
  obtain ⟨r, hr, v, hv, rfl⟩ := exists_digits (h.trans_eq (Nat.mul_comm a b))
  rw [fe1UpdReverse_digits b r F hv, fe1UpdForward_digits a _ F hr, floorMod_sub_add F hv]

end rounds

theorem fe1Upd_invOn (a b : Nat) (F : Int) :
    Set.InvOn (fun ws => fe1UpdReverse a b ws F) (fun ws => fe1UpdForward a b ws F)
      (Set.Iio (a * b)) (Set.Iio (a * b)) :=
  ⟨fun _ => fe1UpdReverse_fe1UpdForward F, fun _ => fe1UpdForward_fe1UpdReverse F⟩

theorem fe1UpdForward_bijOn (a b : Nat) (F : Int) :
    Set.BijOn (fun ws => fe1UpdForward a b ws F) (Set.Iio (a * b)) (Set.Iio (a * b)) :=
  (fe1Upd_invOn a b F).bijOn (fun _ => fe1UpdForward_lt F) (fun _ => fe1UpdReverse_lt F)

theorem fe1UpdReverse_bijOn (a b : Nat) (F : Int) :
    Set.BijOn (fun ws => fe1UpdReverse a b ws F) (Set.Iio (a * b)) (Set.Iio (a * b)) :=
  (fe1UpdForward_bijOn a b F).symm (fe1Upd_invOn a b F).symm

/-! ## The updates as exact integers -/

theorem fe1UpdForward_cast {a : Nat} (ha : 0 < a) (b ws : Nat) (F : Int) :
    (fe1UpdForward a b ws F : Int) = a * ((ws : Int) % b) + ((ws : Int) / b + F) % a := by
  simp only [fe1UpdForward, Nat.cast_add, Nat.cast_mul, floorMod_cast _ ha, Int.natCast_mod, Int.natCast_div]

theorem fe1UpdReverse_cast {a : Nat} (ha : 0 < a) (b ws : Nat) (F : Int) :
    (fe1UpdReverse a b ws F : Int) = b * (((ws : Int) % a - F) % a) + (ws : Int) / a := by
  simp only [fe1UpdReverse, Nat.cast_add, Nat.cast_mul, floorMod_cast _ ha, Int.natCast_mod, Int.natCast_div]

/-- Settles O47: on the two digits of the working value the directions are each other's two-sided inverse, and send the
same digit, so a pure round function answers both alike. -/
theorem fe1RoundsUndoEachOther : Obligations.Fe1RoundsUndoEachOther := by
  unfold Obligations.Fe1RoundsUndoEachOther
  constructor
  · intro RF a b i ws F h
    refine ⟨fe1UpdForward_lt F h, fe1UpdReverse_lt F h, fe1UpdForward_bijOn a b F, fe1UpdReverse_bijOn a b F, ?_, ?_⟩
    · have harg := fe1ArgReverse_fe1UpdForward (RF i (fe1ArgForward b ws)) h
      exact ⟨harg, by rw [harg, fe1UpdReverse_fe1UpdForward _ h]⟩
    · have harg := fe1ArgForward_fe1UpdReverse (RF i (fe1ArgReverse a ws)) h
      exact ⟨harg, by rw [harg, fe1UpdForward_fe1UpdReverse _ h]⟩
  · intro d st i F hk ha _
    constructor
    · intro hd
      rw [arg_fe1Forward hk hd, upd_fe1Forward hk hd]
      exact ⟨Int.natCast_mod _ _, fe1UpdForward_cast ha _ _ F⟩
    · intro hd
      rw [arg_fe1Reverse hk hd, upd_fe1Reverse hk hd]
      exact ⟨Int.natCast_div _ _, fe1UpdReverse_cast ha _ _ F⟩

end Sys2Proof.Machine
end

section
/-! PROOFS. INVERT toggles the direction and nothing else of the active descriptor (45_width_reversal.md R240, R241). -/

namespace Sys2Proof.Machine

@[simp] theorem inverse_inverse (d : Descriptor) : d.inverse.inverse = d := by
  simp [Descriptor.inverse]

/-- INVERT in IDLE with a descriptor to invert (45_width_reversal.md R240). -/
theorem exec_invert_of_valid {s : State} (u : BitVec 56) (h : s.eng.phase = .idle) (hv : s.act.valid = true) :
    exec (.invert u) s =
      .next { s with done := true, err := false, ovr := false, errCode := 0#4, act := s.act.inverse } := by
  have hne : ¬ (accept s).act.valid = false := by simp [hv]
  rw [exec, execInvert, whenIdle_of_idle _ h, invertCommand, if_neg hne]
  exact congrArg _ (complete_of_idle h)

/-- INVERT in IDLE before any CONFIGURE has succeeded (60_exceptions.md R261). -/
theorem exec_invert_of_not_valid {s : State} (u : BitVec 56) (h : s.eng.phase = .idle) (hv : s.act.valid = false) :
    exec (.invert u) s =
      .next { s with done := false, err := true, ovr := false, errCode := ErrorCause.notConfigured.code } := by
  have hva : (accept s).act.valid = false := hv
  rw [exec, execInvert, whenIdle_of_idle _ h, invertCommand, if_pos hva]
  exact congrArg _ (fail_of_idle _ h)

/-- An INVERT in IDLE that reports DONE had a descriptor. -/
theorem act_valid_of_invert_done {s t : State} {u : BitVec 56} (h : s.eng.phase = .idle)
    (hexec : exec (.invert u) s = .next t) (hdone : t.done = true) : s.act.valid = true := by
  by_contra hv
  rw [exec_invert_of_not_valid u h (Bool.eq_false_of_not_eq_true hv), Host.Outcome.next.injEq] at hexec
  subst hexec
  exact absurd hdone Bool.false_ne_true

/-- What an INVERT in IDLE with a descriptor leaves behind, as far as the next one looks at it. -/
theorem invert_of_valid_frame {s t : State} {u : BitVec 56} (h : s.eng.phase = .idle) (hv : s.act.valid = true)
    (hexec : exec (.invert u) s = .next t) : t.done = true ∧ t.act = s.act.inverse ∧ t.eng = s.eng := by
  rw [exec_invert_of_valid u h hv, Host.Outcome.next.injEq] at hexec
  subst hexec
  exact ⟨rfl, rfl, rfl⟩

/-- Settles O35: the first INVERT leaves a valid descriptor and the phase IDLE, so the second succeeds too and toggles the
direction back. -/
theorem invertTwiceRestoresDescriptor : Obligations.InvertTwiceRestoresDescriptor := by
  unfold Obligations.InvertTwiceRestoresDescriptor
  intro s t t' u u' hfirst hdone hidle hsecond
  have hvalid := act_valid_of_invert_done hidle hfirst hdone
  obtain ⟨-, hact, heng⟩ := invert_of_valid_frame hidle hvalid hfirst
  obtain ⟨hdone', hact', -⟩ := invert_of_valid_frame (by rwa [heng]) (by rwa [hact, inverse_valid]) hsecond
  exact ⟨hdone', by rw [hact', hact, inverse_inverse]⟩

end Sys2Proof.Machine
end

section
/-! PROOFS. The toggled descriptor takes an APPLY back: its rounds run through the same indices in the opposite order, and
each sends the value that the round it undoes has sent, so a pure round function answers both alike
(45_width_reversal.md R242). -/

namespace Sys2Proof.Machine

/-! ## The two directions of a bit-domain round send the same value -/

section bitArg
variable {p n q ws : Nat} (F : Int)

theorem bitArgReverse_bitUpdForward (h : ws < 2 ^ (p + n + q)) :
    bitArgReverse p n (bitUpdForward p n q ws F) = bitArgForward q ws := by
  obtain ⟨A, hA, N, hN, B, hB, rfl⟩ := exists_ofFields h
  rw [bitUpdForward_ofFields F hA hN hB, bitArgReverse, bitArgForward, ofFields_and_mask hB,
    ofFields_shiftRight_add hN (Nat.xor_lt_two_pow hA (lowbits_lt F p))]

theorem bitArgForward_bitUpdReverse (h : ws < 2 ^ (p + n + q)) :
    bitArgForward q (bitUpdReverse p n q ws F) = bitArgReverse p n ws := by
  rw [show p + n + q = q + n + p by omega] at h
  obtain ⟨B, hB, N, hN, C, hC, rfl⟩ := exists_ofFields h
  rw [bitUpdReverse_ofFields F hB hN hC, bitArgReverse, bitArgForward, ofFields_and_mask hB,
    ofFields_shiftRight_add hN hC]

end bitArg

/-! ## The toggled descriptor undoes one round -/

/-- The direction decides neither which registers count nor which descriptors are legal. -/
theorem inverse_sameWork (d : Descriptor) (st st' : Work) : d.inverse.SameWork st st' ↔ d.SameWork st st' := Iff.rfl

theorem inverse_legal {w : Width} {d : Descriptor} (hl : d.Legal w) : d.inverse.Legal w := hl

/-- Step `k - (j + 1)` of the toggled descriptor is the round of step `j`. -/
theorem inverse_idx_sub {d : Descriptor} {j : Nat} (hj : j < d.rounds.toNat) :
    d.inverse.idx (d.rounds.toNat - (j + 1)) = d.idx j := by
  cases hd : d.dir with
  | false =>
    rw [idx_reverse (d := d.inverse) (by simp [hd]), idx_forward hd, inverse_rounds]
    omega
  | true =>
    rw [idx_forward (d := d.inverse) (by simp [hd]), idx_reverse hd]
    omega

/-- The part of an FE2 pair that a round adds to or takes from is below that round's modulus
(44_numeric.md R222). -/
theorem Descriptor.InRounds.fe2_lt_modulus {d : Descriptor} {j : Nat} {st : Work} (h : d.InRounds j st)
    (hk : d.kind = .fe2) (hj : j < d.rounds.toNat) :
    (d.dir = false → st.l < d.modulus (d.idx j)) ∧ (d.dir = true → st.r < d.modulus (d.idx j)) := by
  constructor
  · intro hd
    rw [inRounds_fe2Forward _ _ hk hd] at h
    rw [idx_forward hd]
    exact h.1
  · intro hd
    rw [inRounds_fe2Reverse _ _ hk hd, show d.rounds.toNat - j + 1 = d.idx j + 2 by rw [idx_reverse hd]; omega,
      modulus_add_two] at h
    exact h.2

section round
variable {w : Width} {d : Descriptor} {j : Nat} {st : Work} (F : Int) (hl : d.Legal w) (hj : j < d.rounds.toNat)
  (h : d.InRounds j st)
include hl h

/-- The toggled descriptor sends for a round just done the value that was sent for it, whatever was answered
(43_bit_domain.md R189). -/
theorem inverse_arg_upd : d.inverse.arg (d.idx j) (d.upd (d.idx j) st F) = d.arg (d.idx j) st := by
  obtain hk | hk | hk := kind_cases d
  · rw [inRounds_bitDomain _ _ hk, ← widths_add_null hl hk (d.idx j)] at h
    cases hd : d.dir with
    | false =>
      rw [arg_bitReverse (d := d.inverse) hk (by simp [hd]), upd_bitForward hk hd, arg_bitForward hk hd]
      exact bitArgReverse_bitUpdForward F h
    | true =>
      rw [arg_bitForward (d := d.inverse) hk (by simp [hd]), upd_bitReverse hk hd, arg_bitReverse hk hd]
      exact bitArgForward_bitUpdReverse F h
  · rw [inRounds_fe1 _ _ hk] at h
    cases hd : d.dir with
    | false =>
      rw [arg_fe1Reverse (d := d.inverse) hk (by simp [hd]), upd_fe1Forward hk hd, arg_fe1Forward hk hd]
      exact fe1ArgReverse_fe1UpdForward F h
    | true =>
      rw [arg_fe1Forward (d := d.inverse) hk (by simp [hd]), upd_fe1Reverse hk hd, arg_fe1Reverse hk hd]
      exact fe1ArgForward_fe1UpdReverse F h
  · cases hd : d.dir with
    | false => rw [arg_fe2Reverse (d := d.inverse) hk (by simp [hd]), upd_fe2Forward hk hd, arg_fe2Forward hk hd]
    | true => rw [arg_fe2Forward (d := d.inverse) hk (by simp [hd]), upd_fe2Reverse hk hd, arg_fe2Reverse hk hd]

include hj

/-- For the same response the toggled descriptor takes a round back. -/
theorem inverse_upd_upd : d.SameWork (d.inverse.upd (d.idx j) (d.upd (d.idx j) st F) F) st := by
  obtain hk | hk | hk := kind_cases d
  · rw [inRounds_bitDomain _ _ hk, ← widths_add_null hl hk (d.idx j)] at h
    rw [sameWork_of_ne_fe2 (ne_fe2_of_bitDomain hk)]
    cases hd : d.dir with
    | false =>
      rw [upd_bitReverse (d := d.inverse) hk (by simp [hd]), upd_bitForward hk hd]
      exact bitUpdReverse_bitUpdForward F h
    | true =>
      rw [upd_bitForward (d := d.inverse) hk (by simp [hd]), upd_bitReverse hk hd]
      exact bitUpdForward_bitUpdReverse F h
  · rw [inRounds_fe1 _ _ hk] at h
    rw [sameWork_of_ne_fe2 (by simp [hk])]
    cases hd : d.dir with
    | false =>
      rw [upd_fe1Reverse (d := d.inverse) hk (by simp [hd]), upd_fe1Forward hk hd]
      exact fe1UpdReverse_fe1UpdForward F h
    | true =>
      rw [upd_fe1Forward (d := d.inverse) hk (by simp [hd]), upd_fe1Reverse hk hd]
      exact fe1UpdForward_fe1UpdReverse F h
  · obtain ⟨hL, hR⟩ := h.fe2_lt_modulus hk hj
    rw [sameWork_of_fe2 hk]
    cases hd : d.dir with
    | false =>
      rw [upd_fe2Reverse (d := d.inverse) hk (by simp [hd]), upd_fe2Forward hk hd]
      exact ⟨floorMod_add_sub F (hL hd), rfl⟩
    | true =>
      rw [upd_fe2Forward (d := d.inverse) hk (by simp [hd]), upd_fe2Reverse hk hd]
      exact ⟨rfl, floorMod_sub_add F (hR hd)⟩

end round

/-! ## The toggled descriptor undoes the round loop -/

theorem roundLoop_succ (d : Descriptor) (RF : Nat → Nat → Int) (st : Work) (j : Nat) :
    d.roundLoop RF st (j + 1) =
      d.upd (d.idx j) (d.roundLoop RF st j) (RF (d.idx j) (d.arg (d.idx j) (d.roundLoop RF st j))) := rfl

/-- The toggled descriptor, started where the loop of `d` ended, has after `k - j` of the `k` rounds the working value that
`d` had after `j`: each of its rounds sends the same value, so the pure round function answers the same. -/
theorem inverse_roundLoop_sameWork {w : Width} {d : Descriptor} {st st' : Work} (RF : Nat → Nat → Int)
    (hl : d.Legal w) (h : d.InRounds 0 st) (hend : d.SameWork st' (d.roundLoop RF st d.rounds.toNat)) {j : Nat}
    (hj : j ≤ d.rounds.toNat) :
    d.SameWork (d.inverse.roundLoop RF st' (d.rounds.toNat - j)) (d.roundLoop RF st j) := by
  induction hj using Nat.decreasingInduction with
  | self => simpa [Descriptor.roundLoop] using hend
  | of_succ j hj ih =>
    have hrange := roundLoop_inRounds RF hl h hj.le
    have hih := (inverse_sameWork _ _ _).2 ih
    rw [show d.rounds.toNat - j = d.rounds.toNat - (j + 1) + 1 by omega, roundLoop_succ, inverse_idx_sub hj,
      hih.arg_eq, roundLoop_succ d, inverse_arg_upd _ hl hrange]
    exact Descriptor.SameWork.trans (hih.upd _ _) (inverse_upd_upd _ hl hj hrange)

/-! ## `init` and `fin` of the two directions -/

/-- The toggled descriptor takes apart what `fin` has put together (44_numeric.md R220, R221). -/
theorem inverse_init_fin {d : Descriptor} {st : Work} (st' : Work) (h : d.InRounds d.rounds.toNat st) :
    d.SameWork (d.inverse.init st' (d.fin st)) st := by
  by_cases hk : d.kind = .fe2
  · rw [sameWork_of_fe2 hk]
    cases hd : d.dir with
    | false =>
      rw [inRounds_fe2Forward _ _ hk hd, ← finalModulus_eq] at h
      rw [init_fe2Reverse (d := d.inverse) hk (by simp [hd]), fin_fe2Forward hk hd]
      exact ⟨digits_div _ h.2, digits_mod _ h.2⟩
    | true =>
      rw [inRounds_fe2Reverse _ _ hk hd, Nat.sub_self, Nat.zero_add, modulus_one] at h
      rw [init_fe2Forward (d := d.inverse) hk (by simp [hd]), fin_fe2Reverse hk hd]
      exact ⟨digits_div _ h.2, digits_mod _ h.2⟩
  · rw [sameWork_of_ne_fe2 hk, init_of_ne_fe2 (d := d.inverse) hk, fin_of_ne_fe2 hk]

/-- The toggled descriptor's `fin` puts together what `init` has taken apart. -/
theorem inverse_fin_init (d : Descriptor) (st : Work) (x : Nat) : d.inverse.fin (d.init st x) = x := by
  by_cases hk : d.kind = .fe2
  · cases hd : d.dir with
    | false =>
      rw [fin_fe2Reverse (d := d.inverse) hk (by simp [hd]), init_fe2Forward hk hd]
      exact Nat.div_add_mod x _
    | true =>
      rw [fin_fe2Forward (d := d.inverse) hk (by simp [hd]), init_fe2Reverse hk hd]
      exact Nat.div_add_mod x _
  · rw [fin_of_ne_fe2 (d := d.inverse) hk, init_of_ne_fe2 hk]

/-! ## APPLY and the toggled APPLY -/

section apply
variable {w : Width} {d : Descriptor} {x : Nat} (RF : Nat → Nat → Int) (hl : d.Legal w) (hx : d.inRange x = true)
include hl hx

/-- APPLY stays in the domain (42_round_function_apply.md R167). -/
theorem applyFn_inRange : d.inRange (d.applyFn RF x) = true :=
  fin_inRange (roundLoop_inRounds RF hl (init_inRounds _ hx) le_rfl)

theorem inverse_applyFn_applyFn : d.inverse.applyFn RF (d.applyFn RF x) = x := by
  have hinit := init_inRounds { ws := 0, l := 0, r := 0 } hx
  have hstart := inverse_init_fin { ws := 0, l := 0, r := 0 } (roundLoop_inRounds RF hl hinit le_rfl)
  have hback := inverse_roundLoop_sameWork RF hl hinit hstart (Nat.zero_le _)
  exact ((inverse_sameWork _ _ _).2 hback).fin_eq.trans (inverse_fin_init d _ x)

theorem applyFn_inverse_applyFn : d.applyFn RF (d.inverse.applyFn RF x) = x := by
  simpa using inverse_applyFn_applyFn (d := d.inverse) RF (inverse_legal hl) hx

end apply

/-- Settles O54: APPLY and the toggled APPLY map the domain into itself and are each other's two-sided inverse there. -/
theorem inverseUndoesApply : Obligations.InverseUndoesApply := by
  unfold Obligations.InverseUndoesApply
  intro w d RF hl
  refine ⟨fun x hx => ⟨inverse_applyFn_applyFn RF hl hx, applyFn_inverse_applyFn RF hl hx⟩, ?_⟩
  exact Set.InvOn.bijOn (f' := d.inverse.applyFn RF)
    ⟨fun _ => inverse_applyFn_applyFn RF hl, fun _ => applyFn_inverse_applyFn RF hl⟩
    (fun _ => applyFn_inRange RF hl) (fun _ => applyFn_inRange (d := d.inverse) RF (inverse_legal hl))

end Sys2Proof.Machine
end

section
/-! PROOFS. Decoding and encoding: the header is taken apart and put together, and a write to CMD is the command that the
low byte of its word names (30_encoding.md R70 to R73, R76). -/

namespace Sys2Proof.Machine

/-! ## The fields of a transaction -/

/-- Bit 7 alone tells a write from a read (30_encoding.md R77). -/
theorem headerWr_iff (h : BitVec 8) : headerWr h = true ↔ 128 ≤ h.toNat := by
  revert h; decide

theorem opOf_toNat (data : Word) : (opOf data).toNat = data.toNat % 256 := by
  rw [opOf, BitVec.extractLsb'_toNat, Nat.shiftRight_zero]

theorem opOf_eq_iff (data : Word) (op : BitVec 8) : opOf data = op ↔ data.toNat % 256 = op.toNat := by
  rw [← BitVec.toNat_inj, opOf_toNat]

theorem upper_toNat (data : Word) : (data.extractLsb' 8 56).toNat = data.toNat / 256 := by
  rw [BitVec.extractLsb'_toNat, Nat.shiftRight_eq_div_pow]
  have := data.isLt
  omega

/-! ## The decoder, by the kind of the transaction -/

theorem decode_read (w : Width) {header : BitVec 8} (data : Word) (h : headerWr header = false) :
    decode w { header := header, data := data } = .regRead (headerRsv header) (headerIndex header) := if_pos h

theorem decode_write (w : Width) {header : BitVec 8} (data : Word) (h : headerWr header = true)
    (hcmd : ¬(headerRsv header = 0#3 ∧ headerIndex header = cmdIndex)) :
    decode w { header := header, data := data } =
      .regWrite (headerRsv header) (headerIndex header) (truncTo w data) := by
  rw [decode, if_neg (by simp [h]), if_neg hcmd]

theorem decode_cmdHeader (w : Width) (data : Word) :
    decode w { header := cmdHeader, data := data } =
      (decodeCmd (truncTo w data)).getD (.regWrite 0#3 cmdIndex (truncTo w data)) := by
  simp [decode, cmdHeader]

/-- The only header of a write to CMD with RSV = 0. -/
theorem header_eq_cmdHeader {h : BitVec 8} (hwr : headerWr h = true) (hrsv : headerRsv h = 0#3)
    (hindex : headerIndex h = cmdIndex) : h = cmdHeader := by
  rw [← mkHeader_fields h, hwr, hrsv, hindex]
  rfl

@[simp] theorem decodeCmd_configure (u : BitVec 56) : decodeCmd (cmdWord u 0x01#8) = some (.configure u) := by
  rw [decodeCmd, opOf_cmdWord, upper_cmdWord, if_pos rfl]

@[simp] theorem decodeCmd_apply (u : BitVec 56) : decodeCmd (cmdWord u 0x02#8) = some (.apply u) := by
  rw [decodeCmd, opOf_cmdWord, upper_cmdWord, if_neg (by decide), if_pos rfl]

@[simp] theorem decodeCmd_invert (u : BitVec 56) : decodeCmd (cmdWord u 0x03#8) = some (.invert u) := by
  rw [decodeCmd, opOf_cmdWord, upper_cmdWord, if_neg (by decide), if_neg (by decide), if_pos rfl]

/-- A word that names no command decodes to none, and only such a word is no other spelling of one (log 9). -/
theorem decodeCmd_eq_none_iff (data : Word) : decodeCmd data = none ↔ isCommandWrite 0#3 cmdIndex data = false := by
  unfold decodeCmd isCommandWrite
  split_ifs <;> simp_all

/-- A command word is put together from what the decoder takes from it. -/
theorem decodeCmd_cases (data : Word) :
    (∃ u, data = cmdWord u 0x01#8 ∧ decodeCmd data = some (.configure u)) ∨
      (∃ u, data = cmdWord u 0x02#8 ∧ decodeCmd data = some (.apply u)) ∨
      (∃ u, data = cmdWord u 0x03#8 ∧ decodeCmd data = some (.invert u)) ∨
      decodeCmd data = none := by
  have hfields := (cmdWord_fields data).symm
  unfold decodeCmd
  split_ifs with h1 h2 h3
  · exact .inl ⟨_, h1 ▸ hfields, rfl⟩
  · exact .inr (.inl ⟨_, h2 ▸ hfields, rfl⟩)
  · exact .inr (.inr (.inl ⟨_, h3 ▸ hfields, rfl⟩))
  · exact .inr (.inr (.inr rfl))

/-! ## Decoding what was encoded -/

/-- The carrier of a command gives the command back: its word has W bits (30_encoding.md R72). -/
theorem decode_command {w : Width} {u : BitVec 56} {op : BitVec 8} {i : Instr} (hu : upperFits w u = true)
    (hop : decodeCmd (cmdWord u op) = some i) : decode w { header := cmdHeader, data := cmdWord u op } = i := by
  rw [decode_cmdHeader, truncTo_of_fits (by rwa [fitsIn_cmdWord]), hop, Option.getD_some]

/-- The carrier of a write gives the write back, unless it spells a command. -/
theorem decode_encode_regWrite {w : Width} {rsv : BitVec 3} {index : BitVec 4} {data : Word}
    (hfits : fitsIn w data = true) (hcmd : isCommandWrite rsv index data = false) :
    decode w (encode (.regWrite rsv index data)) = .regWrite rsv index data := by
  by_cases hc : rsv = 0#3 ∧ index = cmdIndex
  · obtain ⟨rfl, rfl⟩ := hc
    have hdecode := decode_cmdHeader w data
    rw [truncTo_of_fits hfits, (decodeCmd_eq_none_iff data).2 hcmd] at hdecode
    exact hdecode
  · rw [encode, decode_write w data (headerWr_write rsv index) (by simpa using hc), headerRsv_mkHeader,
      headerIndex_mkHeader, truncTo_of_fits hfits]

/-- Settles O2, constructor by constructor: a read's and a write's fields come back from the header, a command's ignored part
from its word. -/
theorem decodeInvertsEncode : Obligations.DecodeInvertsEncode := by
  unfold Obligations.DecodeInvertsEncode
  intro w i hwf
  cases i with
  | regRead rsv index =>
    rw [encode, decode_read w _ (headerWr_read rsv index), headerRsv_mkHeader, headerIndex_mkHeader]
  | regWrite rsv index data =>
    simp only [Instr.wellFormed, Bool.and_eq_true, Bool.not_eq_true'] at hwf
    exact decode_encode_regWrite hwf.1 hwf.2
  | configure u => exact decode_command hwf (decodeCmd_configure u)
  | apply u => exact decode_command hwf (decodeCmd_apply u)
  | invert u => exact decode_command hwf (decodeCmd_invert u)

/-! ## Encoding what was decoded -/

/-- What a transaction's own command word decodes to is well formed and is carried by that word. -/
theorem encode_decode_cmdHeader {w : Width} {data : Word} (hfits : fitsIn w data = true) :
    (decode w { header := cmdHeader, data := data }).wellFormed w = true ∧
      encode (decode w { header := cmdHeader, data := data }) = { header := cmdHeader, data := data } := by
  rw [decode_cmdHeader, truncTo_of_fits hfits]
  obtain ⟨u, rfl, hd⟩ | ⟨u, rfl, hd⟩ | ⟨u, rfl, hd⟩ | hd := decodeCmd_cases data
  · rw [hd, Option.getD_some]
    exact ⟨(fitsIn_cmdWord w u _).symm.trans hfits, rfl⟩
  · rw [hd, Option.getD_some]
    exact ⟨(fitsIn_cmdWord w u _).symm.trans hfits, rfl⟩
  · rw [hd, Option.getD_some]
    exact ⟨(fitsIn_cmdWord w u _).symm.trans hfits, rfl⟩
  · rw [hd, Option.getD_none]
    exact ⟨by simp [Instr.wellFormed, hfits, (decodeCmd_eq_none_iff data).1 hd], rfl⟩

/-- A write that is not a write to CMD with RSV = 0 is no spelling of a command. -/
theorem isCommandWrite_eq_false {rsv : BitVec 3} {index : BitVec 4} (data : Word)
    (h : ¬(rsv = 0#3 ∧ index = cmdIndex)) : isCommandWrite rsv index data = false := by
  simp only [isCommandWrite, Bool.and_eq_false_iff, decide_eq_false_iff_not]
  tauto

theorem mkHeader_of_read {h : BitVec 8} (hwr : headerWr h = false) :
    mkHeader 0#1 (headerRsv h) (headerIndex h) = h := by
  have hfields := mkHeader_fields h
  rwa [hwr] at hfields

theorem mkHeader_of_write {h : BitVec 8} (hwr : headerWr h = true) :
    mkHeader 1#1 (headerRsv h) (headerIndex h) = h := by
  have hfields := mkHeader_fields h
  rwa [hwr] at hfields

/-- Settles O3, by the three kinds of transaction: a read, a write to CMD, another write. -/
theorem encodeInvertsDecode : Obligations.EncodeInvertsDecode := by
  unfold Obligations.EncodeInvertsDecode
  rintro w ⟨header, data⟩ hfits
  cases hwr : headerWr header with
  | false =>
    rw [decode_read w data hwr]
    refine ⟨rfl, by rw [encode, mkHeader_of_read hwr], fun h128 => ?_⟩
    rw [(headerWr_iff header).2 h128] at hwr
    cases hwr
  | true =>
    by_cases hcmd : headerRsv header = 0#3 ∧ headerIndex header = cmdIndex
    · obtain rfl := header_eq_cmdHeader hwr hcmd.1 hcmd.2
      obtain ⟨hwf, henc⟩ := encode_decode_cmdHeader hfits
      exact ⟨hwf, by rw [henc], fun _ => henc⟩
    · have henc : encode (decode w ⟨header, data⟩) = ⟨header, data⟩ := by
        rw [decode_write w data hwr hcmd, encode, truncTo_of_fits hfits, mkHeader_of_write hwr]
      refine ⟨?_, by rw [henc], fun _ => henc⟩
      rw [decode_write w data hwr hcmd, Instr.wellFormed, isCommandWrite_eq_false _ hcmd, truncTo_fits]
      rfl

/-- The decoder looks at the W low bits of the data word only (20_memory.md R53). -/
theorem decode_truncTo (w : Width) (t : BusTxn) : decode w { t with data := truncTo w t.data } = decode w t := by
  simp only [decode, truncTo_of_fits (truncTo_fits w t.data)]

/-- Whatever the host drives, the decoder answers a well-formed instruction. -/
theorem decode_wellFormed (w : Width) (t : BusTxn) : (decode w t).wellFormed w = true := by
  obtain ⟨hwf, -⟩ := encodeInvertsDecode w { t with data := truncTo w t.data } (truncTo_fits w t.data)
  rwa [decode_truncTo] at hwf

/-! ## The command of a word -/

/-- Settles O4: the low byte selects the decoder's case, and the bits above it are the ignored part. -/
theorem commandNamedByLowByte : Obligations.CommandNamedByLowByte := by
  unfold Obligations.CommandNamedByLowByte
  intro w data hfits
  have hdecode : decode w { header := 0x81#8, data := data } =
      (decodeCmd data).getD (.regWrite 0#3 cmdIndex data) := by
    rw [show 0x81#8 = cmdHeader by decide, decode_cmdHeader, truncTo_of_fits hfits]
  rw [hdecode]
  have hop (n : Nat) (hn : n < 256) : opOf data = BitVec.ofNat 8 n ↔ data.toNat % 256 = n := by
    rw [opOf_eq_iff, BitVec.toNat_ofNat, Nat.mod_eq_of_lt hn]
  have h1 := hop 1 (by decide)
  have h2 := hop 2 (by decide)
  have h3 := hop 3 (by decide)
  refine ⟨fun h => ⟨_, ?_, upper_toNat data⟩, fun h => ⟨_, ?_, upper_toNat data⟩, fun h => ⟨_, ?_, upper_toNat data⟩,
    fun h => ?_⟩
  · simp [decodeCmd, h1.2 h]
  · simp [decodeCmd, h2.2 h]
  · simp [decodeCmd, h3.2 h]
  · rw [decodeCmd, if_neg (by rw [h1]; omega), if_neg (by rw [h2]; omega), if_neg (by rw [h3]; omega)]
    rfl

/-- Settles O1: the seven transactions are evaluated. -/
theorem sampleTransactionsDecode : Obligations.SampleTransactionsDecode := by
  unfold Obligations.SampleTransactionsDecode
  decide

end Sys2Proof.Machine
end

section
/-! PROOFS. The host's register accesses: what a read returns, what a write stages, and the writes that are ignored
(10_state.md R21 to R29; 40_host_access.md R100, R101). -/

namespace Sys2Proof.Machine

/-! ## REG_READ -/

theorem exec_regRead (rsv : BitVec 3) (index : BitVec 4) (s : State) :
    exec (.regRead rsv index) s = .next { s with readData := busRead rsv index s } := rfl

theorem append_toNat {m n : Nat} (a : BitVec m) (b : BitVec n) : (a ++ b).toNat = a.toNat * 2 ^ n + b.toNat := by
  rw [BitVec.toNat_append, ← Nat.shiftLeft_add_eq_or_of_lt b.isLt, Nat.shiftLeft_eq]

/-- STATUS, field by field (10_state.md R24). -/
theorem statusWord_toNat (s : State) :
    s.statusWord.toNat = s.busy.toNat + 2 * s.done.toNat + 4 * s.err.toNat + 8 * s.ovr.toNat +
      2 ^ 4 * s.errCode.toNat + 2 ^ 8 * s.act.valid.toNat + 2 ^ 9 * s.act.dir.toNat +
      2 ^ 10 * s.act.kind.code.toNat + 2 ^ 13 * s.act.rfsel.toNat := by
  simp only [State.statusWord, append_toNat, BitVec.toNat_ofBool, BitVec.toNat_zero]
  ring

/-- CFG: KIND in [2:0], RFSEL in [4] (10_state.md R25). -/
theorem cfgWord_toNat (s : State) : s.cfgWord.toNat = s.cfgKind.toNat + 2 ^ 4 * s.cfgRfsel.toNat := by
  simp only [State.cfgWord, append_toNat, BitVec.toNat_ofBool, BitVec.toNat_zero]
  ring

theorem busy_toNat (s : State) : s.busy.toNat = if s.eng.phase = .idle then 0 else 1 := by
  cases h : s.eng.phase <;> simp [State.busy, h]

/-- A 32-bit register reads zero-extended (40_host_access.md R100). -/
theorem zeroExtend_toNat (v : BitVec 32) : (v.setWidth 64).toNat = v.toNat := by
  rw [BitVec.toNat_setWidth_of_le (by decide)]

/-- The indices without a register (10_state.md R21). -/
theorem ofIndex_reserved : ∀ index : BitVec 4, 0xC ≤ index.toNat → RegName.ofIndex index = .reserved := by decide

theorem busRead_reserved {index : BitVec 4} (h : index = cmdIndex ∨ 0xC ≤ index.toNat) (s : State) :
    busRead 0#3 index s = 0#64 := by
  rw [busRead, if_pos rfl]
  obtain rfl | h := h
  · rfl
  · rw [ofIndex_reserved index h, readReg]

/-- Settles O9: the word is the register's own, and the fields of CAP, STATUS and CFG are those of their sums. -/
theorem regReadReturnsRegister : Obligations.RegReadReturnsRegister := by
  unfold Obligations.RegReadReturnsRegister
  intro s rsv index
  refine ⟨busRead rsv index s, exec_regRead rsv index s, fun h => if_neg h, ?_⟩
  rintro rfl
  refine ⟨?_, fun h => busRead_reserved h s, ?_, ?_, ?_, ?_, ?_, ?_, ?_, ?_, ?_, ?_⟩
  · rintro rfl
    exact capWord_toNat s.width
  · rintro rfl
    refine (statusWord_toNat s).trans ?_
    rw [busy_toNat]
    cases s.act.kind <;> rfl
  · rintro rfl
    exact cfgWord_toNat s
  · rintro rfl
    exact zeroExtend_toNat s.rounds
  · rintro rfl
    exact zeroExtend_toNat s.totalBits
  · rintro rfl
    exact zeroExtend_toNat s.sourceBits
  · rintro rfl
    exact zeroExtend_toNat s.targetBits
  all_goals
    rintro rfl
    rfl

/-! ## REG_WRITE -/

/-- A write of any register but CMD is a store (40_host_access.md R101). -/
theorem exec_regWrite_of_stage {index : BitVec 4} {r : RegName} (h : RegName.ofIndex index = r) (hr : r ≠ .cmd)
    (data : Word) (s : State) : exec (.regWrite 0#3 index data) s = .next (stageReg r data s) := by
  subst h
  rw [exec, execRegWrite, busWrite, if_pos rfl]
  split
  · exact absurd ‹_› hr
  · rfl

/-- A write whose reserved header field is not 0 is ignored (30_encoding.md R76). -/
theorem exec_regWrite_of_rsv {rsv : BitVec 3} (h : rsv ≠ 0#3) (index : BitVec 4) (data : Word) (s : State) :
    exec (.regWrite rsv index data) s = .next s := by
  rw [exec, execRegWrite, busWrite, if_neg h]

theorem extractLsb'_zero_eq_ofNat (k : Nat) (data : Word) :
    data.extractLsb' 0 k = BitVec.ofNat k (data.toNat % 2 ^ k) := by
  apply BitVec.eq_of_toNat_eq
  rw [BitVec.extractLsb'_toNat, Nat.shiftRight_zero, BitVec.toNat_ofNat, Nat.mod_mod]

/-- RFSEL is bit 4 of a written CFG word (10_state.md R25). -/
theorem getLsbD_four (data : Word) : data.getLsbD 4 = decide (data.toNat / 16 % 2 = 1) := by
  rw [BitVec.getLsbD, Nat.testBit_eq_decide_div_mod_eq]

/-- Settles O10: each register stores its field of the written word. -/
theorem regWriteStagesRegister : Obligations.RegWriteStagesRegister := by
  unfold Obligations.RegWriteStagesRegister
  intro s data hfits
  have stage {index : BitVec 4} (r : RegName) (h : RegName.ofIndex index = r) (hr : r ≠ .cmd) :=
    exec_regWrite_of_stage h hr data s
  refine ⟨?_, ?_, ?_, ?_, ?_, ?_, ?_, ?_⟩
  · rw [stage .cfg rfl (by decide), stageReg, extractLsb'_zero_eq_ofNat, getLsbD_four]
    rfl
  · rw [stage .rounds rfl (by decide), stageReg, extractLsb'_zero_eq_ofNat]
  · rw [stage .totalBits rfl (by decide), stageReg, extractLsb'_zero_eq_ofNat]
  · rw [stage .sourceBits rfl (by decide), stageReg, extractLsb'_zero_eq_ofNat]
  · rw [stage .targetBits rfl (by decide), stageReg, extractLsb'_zero_eq_ofNat]
  · rw [stage .radixA rfl (by decide), stageReg, truncTo_of_fits hfits]
  · rw [stage .radixB rfl (by decide), stageReg, truncTo_of_fits hfits]
  · rw [stage .x rfl (by decide), stageReg, truncTo_of_fits hfits]

/-- The registers whose writes are ignored (10_state.md R21). -/
theorem ofIndex_readOnly : ∀ index : BitVec 4, index = 0x0#4 ∨ index = 0x2#4 ∨ 0xB ≤ index.toNat →
    RegName.ofIndex index = .cap ∨ RegName.ofIndex index = .status ∨ RegName.ofIndex index = .y ∨
      RegName.ofIndex index = .reserved := by decide

/-- Settles O11: a reserved header field stops the write, and a read-only or reserved register stores nothing. -/
theorem ignoredWritesChangeNothing : Obligations.IgnoredWritesChangeNothing := by
  unfold Obligations.IgnoredWritesChangeNothing
  intro s rsv index data h
  by_cases hrsv : rsv = 0#3
  · subst hrsv
    obtain hr | hr | hr | hr := ofIndex_readOnly index (h.resolve_left (absurd rfl))
    all_goals exact exec_regWrite_of_stage hr (by decide) data s
  · exact exec_regWrite_of_rsv hrsv index data s

/-! ## A read after a write -/

/-- What a read of a read-write register returns after a write of it. -/
theorem readReg_stageReg_cfg (data : Word) (s : State) :
    (readReg .cfg (stageReg .cfg data s)).toNat = data.toNat % 8 + 16 * (data.toNat / 16 % 2) := by
  have hkind : (data.extractLsb' 0 3).toNat = data.toNat % 8 := by
    rw [BitVec.extractLsb'_toNat, Nat.shiftRight_zero]
  have hsel : (data.getLsbD 4).toNat = data.toNat / 16 % 2 := by
    rw [getLsbD_four]
    obtain h | h := Nat.mod_two_eq_zero_or_one (data.toNat / 16) <;> rw [h] <;> rfl
  rw [← hkind, ← hsel]
  exact cfgWord_toNat _

theorem extractLsb'_32_zeroExtend_toNat (data : Word) :
    ((data.extractLsb' 0 32).setWidth 64).toNat = data.toNat % 2 ^ 32 := by
  rw [zeroExtend_toNat, BitVec.extractLsb'_toNat, Nat.shiftRight_zero]

theorem readReg_stageReg_32 {r : RegName} (h : r = .rounds ∨ r = .totalBits ∨ r = .sourceBits ∨ r = .targetBits)
    (data : Word) (s : State) : (readReg r (stageReg r data s)).toNat = data.toNat % 2 ^ 32 := by
  obtain rfl | rfl | rfl | rfl := h
  all_goals exact extractLsb'_32_zeroExtend_toNat data

theorem readReg_stageReg_word {r : RegName} (h : r = .radixA ∨ r = .radixB ∨ r = .x) (data : Word) (s : State) :
    readReg r (stageReg r data s) = truncTo s.width data := by
  obtain rfl | rfl | rfl := h
  all_goals rfl

/-- The read-write registers by the size of what they store (10_state.md R21). -/
theorem ofIndex_readWrite : ∀ index : BitVec 4, 0x3 ≤ index.toNat → index.toNat ≤ 0xA →
    (index = 0x3#4 ∧ RegName.ofIndex index = .cfg) ∨
    (index ≠ 0x3#4 ∧ index.toNat ≤ 0x7 ∧ (RegName.ofIndex index = .rounds ∨ RegName.ofIndex index = .totalBits ∨
      RegName.ofIndex index = .sourceBits ∨ RegName.ofIndex index = .targetBits)) ∨
    (index ≠ 0x3#4 ∧ ¬index.toNat ≤ 0x7 ∧ (RegName.ofIndex index = .radixA ∨ RegName.ofIndex index = .radixB ∨
      RegName.ofIndex index = .x)) := by decide

theorem ofIndex_ne_cmd : ∀ index : BitVec 4, 0x3 ≤ index.toNat → RegName.ofIndex index ≠ .cmd := by decide

/-- Settles O12: the read returns what the write has staged, by the size of the register. -/
theorem readAfterWriteReturnsFields : Obligations.ReadAfterWriteReturnsFields := by
  unfold Obligations.ReadAfterWriteReturnsFields
  intro s index data hfits hlow hhigh
  refine ⟨stageReg (.ofIndex index) data s, readReg (.ofIndex index) (stageReg (.ofIndex index) data s),
    exec_regWrite_of_stage rfl (ofIndex_ne_cmd index hlow) data s, exec_regRead _ _ _, ?_⟩
  obtain ⟨h3, hr⟩ | ⟨hne, h7, hr⟩ | ⟨hne, h7, hr⟩ := ofIndex_readWrite index hlow hhigh
  · rw [if_pos h3, hr, readReg_stageReg_cfg]
  · rw [if_neg hne, if_pos h7, readReg_stageReg_32 hr]
  · rw [if_neg hne, if_neg h7, readReg_stageReg_word hr, truncTo_of_fits hfits]

end Sys2Proof.Machine
end

section
/-! PROOFS. Presenting a command: the drop while BUSY, the acceptance in IDLE, and how each command ends
(40_host_access.md R103, R104; 60_exceptions.md R261, R262). -/

namespace Sys2Proof.Machine

/-! ## Which command an instruction presents -/

/-- The instruction presents the command `c`: it is dropped while an APPLY executes and carried out in IDLE. -/
def Presents (i : Instr) (c : State → State) : Prop := ∀ s, exec i s = .next (whenIdle c s)

theorem presents_configure (u : BitVec 56) : Presents (.configure u) configureCommand := fun _ => rfl

theorem presents_apply (u : BitVec 56) : Presents (.apply u) applyCommand := fun _ => rfl

theorem presents_invert (u : BitVec 56) : Presents (.invert u) invertCommand := fun _ => rfl

theorem presents_cmdWrite (data : Word) : Presents (.regWrite 0#3 0x1#4 data) (commandOf (opOf data)) := fun _ => rfl

/-- The four things a command can be: one of the three commands, or an illegal OP (40_host_access.md R103). -/
def IsCommand (c : State → State) : Prop :=
  c = configureCommand ∨ c = applyCommand ∨ c = invertCommand ∨ c = fail .illegalCmd

theorem exists_presents {i : Instr} {u : BitVec 56} {data : Word}
    (h : i = .configure u ∨ i = .apply u ∨ i = .invert u ∨ i = .regWrite 0#3 0x1#4 data) :
    ∃ c, Presents i c ∧ IsCommand c := by
  obtain rfl | rfl | rfl | rfl := h
  · exact ⟨_, presents_configure u, .inl rfl⟩
  · exact ⟨_, presents_apply u, .inr (.inl rfl)⟩
  · exact ⟨_, presents_invert u, .inr (.inr (.inl rfl))⟩
  · exact ⟨_, presents_cmdWrite data, commandOf_cases _⟩

theorem Presents.of_idle {i : Instr} {c : State → State} (h : Presents i c) {s : State} (hidle : s.eng.phase = .idle) :
    exec i s = .next (c (accept s)) := by
  rw [h s, whenIdle_of_idle c hidle]

theorem Presents.of_busy {i : Instr} {c : State → State} (h : Presents i c) {s : State} (hbusy : s.eng.phase ≠ .idle) :
    exec i s = .next { s with ovr := true } := by
  rw [h s, whenIdle_of_busy c (busy_eq_true hbusy)]

/-- A word whose low byte is 0 or 4 to 255 has an illegal OP (30_encoding.md R73). -/
theorem commandOf_illegal {data : Word} (h : data.toNat % 256 = 0 ∨ 4 ≤ data.toNat % 256) :
    commandOf (opOf data) = fail .illegalCmd := by
  have hne (op : BitVec 8) (h1 : 1 ≤ op.toNat) (h3 : op.toNat ≤ 3) : opOf data ≠ op := by
    rw [Ne, opOf_eq_iff]
    omega
  rw [commandOf, if_neg (hne _ (by decide) (by decide)), if_neg (hne _ (by decide) (by decide)),
    if_neg (hne _ (by decide) (by decide))]

/-- Settles O13: the OP of the word selects the command. -/
theorem commandWriteIsCommand : Obligations.CommandWriteIsCommand := by
  unfold Obligations.CommandWriteIsCommand
  intro s data
  refine ⟨fun h u => ?_, fun h u => ?_, fun h u => ?_⟩
  · rw [presents_cmdWrite data, presents_configure u, (opOf_eq_iff data 0x01#8).2 h]
    rfl
  · rw [presents_cmdWrite data, presents_apply u, (opOf_eq_iff data 0x02#8).2 h]
    rfl
  · rw [presents_cmdWrite data, presents_invert u, (opOf_eq_iff data 0x03#8).2 h]
    rfl

/-- Settles O15: each of the four presents a command. -/
theorem busyDropsEveryCommand : Obligations.BusyDropsEveryCommand := by
  unfold Obligations.BusyDropsEveryCommand
  intro s u data hbusy
  exact ⟨(presents_configure u).of_busy hbusy, (presents_apply u).of_busy hbusy, (presents_invert u).of_busy hbusy,
    (presents_cmdWrite data).of_busy hbusy⟩

/-! ## How an accepted command ends -/

theorem fail_accept {s : State} (cause : ErrorCause) (hidle : s.eng.phase = .idle) :
    fail cause (accept s) = { s with done := false, err := true, ovr := false, errCode := cause.code } :=
  fail_of_idle (s := accept s) cause hidle

theorem complete_accept {s : State} (d : Descriptor) (hidle : s.eng.phase = .idle) :
    complete { accept s with act := d } =
      { s with done := true, err := false, ovr := false, errCode := 0#4, act := d } :=
  complete_of_idle (s := { accept s with act := d }) hidle

/-- An APPLY that passes its checks, right after its accepting step (42_round_function_apply.md R160). -/
def State.applyStarted (s : State) : State :=
  { (accept s).setWork (s.act.init s.eng.work s.opX) with
    eng := { ((accept s).setWork (s.act.init s.eng.work s.opX)).eng with j := 0#32, phase := .run } }

/-- A command that reports a cause, or completes with a descriptor, in its accepting step. -/
def EndsAtOnce (c : State → State) (s : State) : Prop :=
  (∃ cause : ErrorCause,
    c (accept s) = { s with done := false, err := true, ovr := false, errCode := cause.code }) ∨
  (∃ d, c (accept s) = { s with done := true, err := false, ovr := false, errCode := 0#4, act := d })

section ends
variable {s : State} (hidle : s.eng.phase = .idle)
include hidle

theorem configureCommand_ends : EndsAtOnce configureCommand s := by
  obtain ⟨cause, -, h⟩ | ⟨d, -, h⟩ := configureCommand_cases (accept s)
  · exact .inl ⟨cause, h.trans (fail_accept cause hidle)⟩
  · exact .inr ⟨d, h.trans (complete_accept d hidle)⟩

theorem invertCommand_ends : EndsAtOnce invertCommand s := by
  obtain ⟨-, h⟩ | ⟨-, h⟩ := invertCommand_cases (accept s)
  · exact .inl ⟨_, h.trans (fail_accept _ hidle)⟩
  · exact .inr ⟨_, h.trans (complete_accept _ hidle)⟩

theorem illegalCmd_ends : EndsAtOnce (fail .illegalCmd) s := .inl ⟨_, fail_accept _ hidle⟩

/-- APPLY alone may outlast its accepting step (42_round_function_apply.md R160). -/
theorem applyCommand_ends_or_starts :
    EndsAtOnce applyCommand s ∨
      (s.act.valid = true ∧ s.act.inRange s.opX = true ∧ applyCommand (accept s) = s.applyStarted) := by
  obtain ⟨-, h⟩ | ⟨-, -, h⟩ | h := applyCommand_cases (accept s)
  · exact .inl (.inl ⟨_, h.trans (fail_accept _ hidle)⟩)
  · exact .inl (.inl ⟨_, h.trans (fail_accept _ hidle)⟩)
  · exact .inr h

/-- What the accepting step of any command can be. -/
theorem IsCommand.ends_or_starts {c : State → State} (hc : IsCommand c) :
    EndsAtOnce c s ∨
      (c = applyCommand ∧ s.act.valid = true ∧ s.act.inRange s.opX = true ∧ c (accept s) = s.applyStarted) := by
  obtain rfl | rfl | rfl | rfl := hc
  · exact .inl (configureCommand_ends hidle)
  · exact (applyCommand_ends_or_starts hidle).imp_right (⟨rfl, ·⟩)
  · exact .inl (invertCommand_ends hidle)
  · exact .inl (illegalCmd_ends hidle)

end ends

theorem code_ne_zero (cause : ErrorCause) : cause.code ≠ 0#4 := by cases cause <;> decide

/-- Settles O14: an illegal OP only reports its cause. -/
theorem illegalOpFailsIllegalCmd : Obligations.IllegalOpFailsIllegalCmd := by
  unfold Obligations.IllegalOpFailsIllegalCmd
  intro s data hidle h
  rw [(presents_cmdWrite data).of_idle hidle, commandOf_illegal h, fail_accept _ hidle]
  rfl

/-- Settles O16: an accepted command starts from `accept`, which forgets the outcome, and no end of a command sets OVR. -/
theorem acceptanceClearsOutcome : Obligations.AcceptanceClearsOutcome := by
  unfold Obligations.AcceptanceClearsOutcome
  intro s u data i d e o code hidle hi
  obtain ⟨c, hpresents, hc⟩ := exists_presents hi
  refine ⟨c (accept s), hpresents.of_idle hidle, ?_, hpresents.of_idle hidle⟩
  obtain (⟨cause, h⟩ | ⟨d, h⟩) | ⟨-, -, -, h⟩ := hc.ends_or_starts hidle
  all_goals exact (congrArg State.ovr h).trans rfl

/-- The outcome of a command that ended in its accepting step (60_exceptions.md R261, R262). -/
theorem EndsAtOnce.outcome {c : State → State} {s : State} (h : EndsAtOnce c s) (hidle : s.eng.phase = .idle) :
    let t := c (accept s)
    (t.busy = false ∧ t.done = true ∧ t.err = false ∧ t.errCode = 0#4) ∨
      (t.busy = false ∧ t.done = false ∧ t.err = true ∧ t.errCode ≠ 0#4) := by
  intro t
  have hbusy := busy_eq_false hidle
  obtain ⟨cause, ht : t = _⟩ | ⟨d, ht : t = _⟩ := h
  · rw [ht]
    exact .inr ⟨hbusy, rfl, rfl, code_ne_zero cause⟩
  · rw [ht]
    exact .inl ⟨hbusy, rfl, rfl, rfl⟩

/-- Settles O17: every command but APPLY ends in its accepting step, and so does an APPLY that does not start. -/
theorem acceptedCommandsEndOnce : Obligations.AcceptedCommandsEndOnce := by
  unfold Obligations.AcceptedCommandsEndOnce
  intro s u data i hidle hi
  have hends : (∃ c, Presents i c ∧ EndsAtOnce c s) ∨
      (i = .apply u ∧ applyCommand (accept s) = s.applyStarted) := by
    obtain rfl | rfl | rfl | ⟨rfl, hop⟩ := hi
    · exact .inl ⟨_, presents_configure u, configureCommand_ends hidle⟩
    · obtain h | ⟨-, -, h⟩ := applyCommand_ends_or_starts hidle
      · exact .inl ⟨_, presents_apply u, h⟩
      · exact .inr ⟨rfl, h⟩
    · exact .inl ⟨_, presents_invert u, invertCommand_ends hidle⟩
    · exact .inl ⟨_, commandOf_illegal hop ▸ presents_cmdWrite data, illegalCmd_ends hidle⟩
  obtain ⟨c, hpresents, h⟩ | ⟨rfl, h⟩ := hends
  · exact ⟨c (accept s), hpresents.of_idle hidle, (h.outcome hidle).imp_right .inl⟩
  · exact ⟨s.applyStarted, h ▸ (presents_apply u).of_idle hidle, .inr (.inr ⟨rfl, rfl, rfl, rfl, rfl⟩)⟩

/-- Settles O18: of the three ends only the report of a cause leaves ERR = 1. -/
theorem failedCommandOnlyReports : Obligations.FailedCommandOnlyReports := by
  unfold Obligations.FailedCommandOnlyReports
  intro s t u data i hidle hi hexec herr
  obtain ⟨c, hpresents, hc⟩ := exists_presents hi
  rw [hpresents.of_idle hidle, Host.Outcome.next.injEq] at hexec
  subst hexec
  obtain (⟨cause, h⟩ | ⟨d, h⟩) | ⟨-, -, -, h⟩ := hc.ends_or_starts hidle
  · rw [h]
  · rw [h] at herr
    cases herr
  · rw [h] at herr
    cases herr

end Sys2Proof.Machine
end

section
/-! PROOFS. CONFIGURE of the constructions that pass its checks, the same at both widths (41_range_check_configure.md R130 to
R137; 45_width_reversal.md R243). -/

namespace Sys2Proof.Machine

/-- The converse of `validate_ok`: nothing else is checked. -/
theorem validate_eq_ok {s : State} {k : Kind} {f : DomainFields} (hk : s.opKind = some k) (hrounds : 0 ≤ s.opRounds)
    (hdom : checkDomain k s = .ok f) (hrf : s.opRfsel = true ∨ s.rfPresent = true) :
    validate s = .ok (mkDescriptor k s f) := by
  have hno : ¬(s.opRfsel = false ∧ s.rfPresent = false) := by
    rintro ⟨h1, h2⟩
    simp [h1, h2] at hrf
  simp only [validate, hk, hdom, if_neg hrounds.not_gt, if_neg hno]

/-! ## The checks of a domain that pass -/

theorem checkBalanced_ok {s : State} (h0 : 0 ≤ s.opTotalBits) (hW : s.opTotalBits ≤ s.width.bits)
    (heven : s.opTotalBits % 2 = 0) :
    checkBalanced s =
      .ok { total := s.opTotalBits, source := s.opTotalBits / 2, target := s.opTotalBits / 2, a := 0, b := 0 } := by
  rw [checkBalanced, if_neg (by omega), if_neg (by omega)]

theorem checkUnbalanced_ok {s : State} (h0 : 0 ≤ s.opTotalBits) (hW : s.opTotalBits ≤ s.width.bits)
    (hS : 0 ≤ s.opSourceBits) (hTG : 0 ≤ s.opTargetBits) (hsum : s.opSourceBits + s.opTargetBits ≤ s.opTotalBits) :
    checkUnbalanced s =
      .ok { total := s.opTotalBits, source := s.opSourceBits, target := s.opTargetBits, a := 0, b := 0 } := by
  rw [checkUnbalanced, if_neg (by omega), if_neg (by omega), if_neg (by omega)]

theorem checkRadix_ok {s : State} (ha : 0 ≤ s.opA) (hb : 0 ≤ s.opB) (hmul : s.opA * s.opB ≤ maxs s.width) :
    checkRadix s = .ok { total := 0, source := 0, target := 0, a := s.opA, b := s.opB } := by
  rw [checkRadix, if_neg (by omega), if_neg (by omega)]

/-! ## The fields of the loaded descriptor -/

/-- A non-negative 32-bit operand is the value of its word, which has no bit 31. -/
theorem toInt_of_nonneg {v : BitVec 32} (h : 0 ≤ v.toInt) : v.toInt = v.toNat ∧ v.toNat < 2 ^ 31 := by
  rw [BitVec.toInt_eq_toNat_cond] at h ⊢
  have := v.isLt
  split_ifs at h ⊢ <;> omega

/-- Halving a non-negative 32-bit operand as an integer is halving its word. -/
theorem ofInt_half {v : BitVec 32} (h : 0 ≤ v.toInt) : BitVec.ofInt 32 (v.toInt / 2) = v / 2#32 := by
  apply BitVec.eq_of_toNat_eq
  rw [(toInt_of_nonneg h).1, BitVec.toNat_ofInt, BitVec.toNat_udiv, show (2#32).toNat = 2 from rfl]
  have := v.isLt
  omega

/-- A non-negative radix is stored as its own word. -/
theorem ofInt_sintW {w : Width} {v : Word} (hf : fitsIn w v = true) (h : 0 ≤ sintW w v) :
    BitVec.ofInt 64 (sintW w v) = v := by
  rw [(sintW_nonneg hf h).1, BitVec.ofInt_natCast, BitVec.ofNat_toNat, BitVec.setWidth_eq]

/-- Settles O19: the checks of the kind pass, and the loaded fields are the staged words. -/
theorem configureLoadsBitDomain : Obligations.ConfigureLoadsBitDomain := by
  unfold Obligations.ConfigureLoadsBitDomain
  intro s u hidle hrounds h0 hW hrf
  constructor
  · intro hkind heven
    have hk : s.opKind = some .balanced := by rw [State.opKind, hkind]; rfl
    rw [exec_configure_of_ok u hidle (validate_eq_ok hk hrounds (checkBalanced_ok h0 hW heven) hrf)]
    simp only [mkDescriptor, State.opRounds, State.opTotalBits, State.opRfsel, BitVec.ofInt_toInt, ofInt_half h0]
    rfl
  · intro hkind hS hTG hsum
    have hk : s.opKind = some .unbalanced := by rw [State.opKind, hkind]; rfl
    rw [exec_configure_of_ok u hidle (validate_eq_ok hk hrounds (checkUnbalanced_ok h0 hW hS hTG hsum) hrf)]
    simp only [mkDescriptor, State.opRounds, State.opTotalBits, State.opSourceBits, State.opTargetBits, State.opRfsel,
      BitVec.ofInt_toInt]
    rfl

/-- Settles O20: both radix kinds have the same checks, and the loaded radices are the staged words. -/
theorem configureLoadsRadix : Obligations.ConfigureLoadsRadix := by
  unfold Obligations.ConfigureLoadsRadix
  intro s u hidle hrounds hfa hfb ha hb hmul hrf k hkind
  have hrad := checkRadix_ok (s := s) ha hb (by rw [maxs_cast]; exact hmul)
  have hk : s.opKind = some k ∧ checkDomain k s = checkRadix s := by
    obtain ⟨hc, rfl⟩ | ⟨hc, rfl⟩ := hkind
    · exact ⟨by rw [State.opKind, hc]; rfl, rfl⟩
    · exact ⟨by rw [State.opKind, hc]; rfl, rfl⟩
  rw [exec_configure_of_ok u hidle (validate_eq_ok hk.1 hrounds (hk.2.trans hrad) hrf)]
  simp only [mkDescriptor, State.opRounds, State.opA, State.opB, State.opRfsel, BitVec.ofInt_toInt,
    ofInt_sintW hfa ha, ofInt_sintW hfb hb]
  rfl

/-! ## The two widths -/

/-- The same registers in an engine of width 64. -/
def State.widened (s : State) : State := { s with width := .w64 }

/-- A non-negative operand of a 32-bit engine reads the same in a 64-bit one. -/
theorem sintW_widened {v : Word} (hf : fitsIn .w32 v = true) (h : 0 ≤ sintW .w32 v) : sintW .w64 v = sintW .w32 v := by
  obtain ⟨heq, hlt⟩ := sintW_nonneg hf h
  rw [heq, sintW_of_lt (hlt.trans (by decide))]

/-- What a 32-bit engine's checks of a domain accept, a 64-bit engine's accept with the same fields
(45_width_reversal.md R243). -/
theorem checkDomain_widened {s : State} {k : Kind} {f : DomainFields} (hw : s.width = .w32) (hfits : s.WordsFit)
    (h : checkDomain k s = .ok f) : checkDomain k s.widened = .ok f := by
  have hbits : (s.width.bits : Int) ≤ Width.w64.bits := by rw [hw]; decide
  obtain ⟨rfl, h0, hW, heven, rfl⟩ | ⟨rfl, h0, hW, hS, hTG, hsum, rfl⟩ | ⟨hk, ha, hb, hmul, rfl⟩ := checkDomain_ok h
  · exact checkBalanced_ok (s := s.widened) h0 (hW.trans hbits) heven
  · exact checkUnbalanced_ok (s := s.widened) h0 (hW.trans hbits) hS hTG hsum
  · obtain ⟨hfa, hfb, -⟩ := hfits
    rw [hw] at hfa hfb
    have hA : s.widened.opA = s.opA := by
      rw [State.opA, hw] at ha
      rw [State.opA, State.opA, hw]
      exact sintW_widened hfa ha
    have hB : s.widened.opB = s.opB := by
      rw [State.opB, hw] at hb
      rw [State.opB, State.opB, hw]
      exact sintW_widened hfb hb
    have hmax : maxs s.width ≤ maxs .w64 := by rw [hw]; decide
    have hrad := checkRadix_ok (s := s.widened) (by rwa [hA]) (by rwa [hB])
      (by rw [hA, hB]; exact hmul.trans (by exact_mod_cast hmax))
    rw [hA, hB] at hrad
    obtain rfl | rfl := hk
    · exact hrad
    · exact hrad

theorem validate_widened {s : State} {d : Descriptor} (hw : s.width = .w32) (hfits : s.WordsFit)
    (h : validate s = .ok d) : validate s.widened = .ok d := by
  obtain ⟨k, f, hk, hrounds, hdom, hrf, rfl⟩ := validate_ok h
  exact validate_eq_ok (s := s.widened) hk hrounds (checkDomain_widened hw hfits hdom) hrf

/-- CONFIGURE in IDLE reports DONE only for a descriptor that its checks gave. -/
theorem validate_ok_of_done {s t : State} {u : BitVec 56} (hidle : s.eng.phase = .idle)
    (h : exec (.configure u) s = .next t) (hdone : t.done = true) :
    ∃ d, validate s = .ok d ∧ t = { s with done := true, err := false, ovr := false, errCode := 0#4, act := d } := by
  obtain ⟨hbusy, -⟩ | ⟨-, c, -, rfl⟩ | ⟨-, hd⟩ := exec_configure_cases h
  · exact absurd hidle hbusy
  · cases hdone
  · exact hd

/-- The code that CONFIGURE reports in IDLE is that of the failing check. -/
theorem errCode_of_reportedCode {s t : State} {u : BitVec 56} {n : Nat} (hidle : s.eng.phase = .idle)
    (h : exec (.configure u) s = .next t) (hn : n ≠ 0) (hcode : reportedCode (validate s) = n) :
    t.errCode = BitVec.ofNat 4 n := by
  have hexec := (exec_configure_of_reportedCode u hidle).1 (hcode ▸ hn)
  rw [h, Host.Outcome.next.injEq, hcode] at hexec
  rw [hexec]

/-- A bit domain wider than the word is reported before the kind's other checks (41_range_check_configure.md R133). -/
theorem reportedCode_of_wide {s : State} (hk : s.cfgKind.toNat ≤ 1) (hrounds : 0 ≤ s.rounds.toInt)
    (hT : (s.width.bits : Int) < s.totalBits.toInt) : reportedCode (validate s) = 4 := by
  obtain ⟨k, hc, hop⟩ | ⟨hge, -⟩ := opKind_cases s
  · rw [reportedCode_validate hop, if_neg hrounds.not_gt]
    rw [hc] at hk
    cases k with
    | balanced => rw [checkDomain, reportedCode_checkBalanced, if_pos (.inr hT)]; rfl
    | unbalanced => rw [checkDomain, reportedCode_checkUnbalanced, if_pos (.inr hT)]; rfl
    | fe1 => exact absurd hk (by decide)
    | fe2 => exact absurd hk (by decide)
  · omega

/-- Non-negative radices with too large a product are reported by it (41_range_check_configure.md R135). -/
theorem reportedCode_of_overflow {s : State} (hk : s.cfgKind = 2#3 ∨ s.cfgKind = 3#3) (hrounds : 0 ≤ s.rounds.toInt)
    (ha : 0 ≤ sintW s.width s.radixA) (hb : 0 ≤ sintW s.width s.radixB)
    (hmul : 2 ^ (s.width.bits - 1) - 1 < sintW s.width s.radixA * sintW s.width s.radixB) :
    reportedCode (validate s) = 9 := by
  have hrad : reportedCode (checkRadix s) = 9 := by
    rw [reportedCode_checkRadix, if_neg (by omega), if_pos hmul]
  have hop : ∃ k, s.opKind = some k ∧ checkDomain k s = checkRadix s := by
    obtain hk | hk := hk
    · exact ⟨.fe1, by rw [State.opKind, hk]; rfl, rfl⟩
    · exact ⟨.fe2, by rw [State.opKind, hk]; rfl, rfl⟩
  obtain ⟨k, hop, hdom⟩ := hop
  rw [reportedCode_validate hop, if_neg hrounds.not_gt, hdom, hrad]
  rfl

/-- Settles O23: what passes the checks at width 32 passes them at 64 with the same fields; the two rejections are codes of
the checks. -/
theorem narrowConfigureAgreesWithWide : Obligations.NarrowConfigureAgreesWithWide := by
  unfold Obligations.NarrowConfigureAgreesWithWide
  intro s t u hw hidle hfits hexec
  refine ⟨fun hdone => ?_, fun hk hrounds hT => ?_, fun hk hrounds ha hb hmul => ?_⟩
  · obtain ⟨d, hd, rfl⟩ := validate_ok_of_done hidle hexec hdone
    exact exec_configure_of_ok (s := s.widened) u hidle (validate_widened hw hfits hd)
  · exact errCode_of_reportedCode hidle hexec (by decide) (reportedCode_of_wide hk hrounds (by rw [hw]; exact hT))
  · obtain ⟨hfa, hfb, -⟩ := hfits
    rw [hw] at hfa hfb
    have hprod : (2 : Int) ^ (Width.w32.bits - 1) - 1 < sintW .w32 s.radixA * sintW .w32 s.radixB := by
      have hmax : maxs .w32 < s.radixA.toNat * s.radixB.toNat := hmul
      rw [(sintW_nonneg hfa ha).1, (sintW_nonneg hfb hb).1, ← maxs_cast]
      exact_mod_cast hmax
    refine errCode_of_reportedCode hidle hexec (by decide) (reportedCode_of_overflow hk hrounds ?_ ?_ ?_)
    · rwa [hw]
    · rwa [hw]
    · rwa [hw]

end Sys2Proof.Machine
end

section
/-! PROOFS. One event of the agenda, and the accepting steps of APPLY and INVERT (10_state.md R20;
42_round_function_apply.md R160; 45_width_reversal.md R240; 70_reset_and_hazards.md R290). -/

namespace Sys2Proof.Machine

/-! ## The step, by the oldest pending event -/

section events
variable {s : State} {later : List Event}

theorem step_host {t : BusTxn} (h : s.agenda = .host t :: later) :
    step s = exec (decode s.width t) { s with agenda := later } := by rw [step, h]

theorem step_engine (h : s.agenda = .engine :: later) : step s = .next (engineStep { s with agenda := later }) := by
  rw [step, h]

theorem step_response {data : Word} (h : s.agenda = .response data :: later) :
    step s = .next (takeResponse data { s with agenda := later }) := by rw [step, h]

theorem step_reset (h : s.agenda = .reset :: later) : step s = .next (resetEngine { s with agenda := later }) := by
  rw [step, h]

end events

/-- Settles O5: the decoder answers a well-formed instruction for every transaction, and the step executes it. -/
theorem stepRunsDecodedTransaction : Obligations.StepRunsDecodedTransaction := by
  unfold Obligations.StepRunsDecodedTransaction
  intro s t later h
  exact ⟨decode_wellFormed s.width t, step_host h⟩

/-- Settles O6: every event has an answer, for every transaction has one. -/
theorem stepAlwaysAnswers : Obligations.StepAlwaysAnswers := step_answers

/-- Settles O8: the step is `resetEngine`, whose result keeps the parameters, the last word read and the later events. -/
theorem resetEventRestoresResetState : Obligations.ResetEventRestoresResetState := by
  unfold Obligations.ResetEventRestoresResetState
  intro s later h
  exact step_reset h

/-- Settles O30: outside WAIT the response is ignored. -/
theorem unaskedResponseIgnored : Obligations.UnaskedResponseIgnored := by
  unfold Obligations.UnaskedResponseIgnored
  intro s data later h hphase
  rw [step_response h, takeResponse_ignored (s := { s with agenda := later }) data hphase]

/-! ## INVERT -/

/-- Settles O34: by the two cases of the descriptor's VALID. -/
theorem invertTogglesDirection : Obligations.InvertTogglesDirection := by
  unfold Obligations.InvertTogglesDirection
  intro s u hidle
  exact ⟨exec_invert_of_valid u hidle, exec_invert_of_not_valid u hidle⟩

/-! ## APPLY -/

theorem exec_apply_of_not_valid {s : State} (u : BitVec 56) (hidle : s.eng.phase = .idle) (hv : s.act.valid = false) :
    exec (.apply u) s =
      .next { s with done := false, err := true, ovr := false, errCode := ErrorCause.notConfigured.code } := by
  have hva : (accept s).act.valid = false := hv
  rw [(presents_apply u).of_idle hidle, applyCommand, if_pos hva, fail_accept _ hidle]

theorem exec_apply_of_domain {s : State} (u : BitVec 56) (hidle : s.eng.phase = .idle) (hv : s.act.valid = true)
    (hx : s.act.inRange s.opX = false) :
    exec (.apply u) s =
      .next { s with done := false, err := true, ovr := false, errCode := ErrorCause.domain.code } := by
  have hva : ¬(accept s).act.valid = false := by simp [hv]
  have hxa : (accept s).act.inRange (accept s).opX = false := hx
  rw [(presents_apply u).of_idle hidle, applyCommand, if_neg hva, if_pos hxa, fail_accept _ hidle]

theorem exec_apply_of_inRange {s : State} (u : BitVec 56) (hidle : s.eng.phase = .idle) (hv : s.act.valid = true)
    (hx : s.act.inRange s.opX = true) : exec (.apply u) s = .next s.applyStarted := by
  have hva : ¬(accept s).act.valid = false := by simp [hv]
  have hxa : ¬(accept s).act.inRange (accept s).opX = false := by
    rw [Bool.not_eq_false]
    exact hx
  rw [(presents_apply u).of_idle hidle, applyCommand, if_neg hva, if_neg hxa]
  rfl

/-- Settles O26: by the two checks of APPLY. -/
theorem applyRejectsWithCode : Obligations.ApplyRejectsWithCode := by
  unfold Obligations.ApplyRejectsWithCode
  intro s u hidle
  refine ⟨exec_apply_of_not_valid u hidle, fun hv hx => exec_apply_of_domain u hidle hv ?_⟩
  rw [Bool.eq_false_iff, Ne, inRange_iff_le_max]
  exact hx.not_ge

/-- The quotient and the remainder of a W-bit word are W-bit words, and writing them back loses nothing. -/
theorem zextTo_div_mod {w : Width} {v : Word} (hf : fitsIn w v = true) (m : Nat) :
    (zextTo w (v.toNat / m)).toNat = v.toNat / m ∧ (zextTo w (v.toNat % m)).toNat = v.toNat % m := by
  rw [fitsIn_iff] at hf
  exact ⟨zextTo_toNat_of_lt ((Nat.div_le_self _ _).trans_lt hf), zextTo_toNat_of_lt ((Nat.mod_le _ _).trans_lt hf)⟩

/-- Settles O25: the working registers hold `init` of X, whose parts have W bits. -/
theorem applyStartsLadder : Obligations.ApplyStartsLadder := by
  unfold Obligations.ApplyStartsLadder
  intro s u hidle hv hfits hx
  refine ⟨s.applyStarted.eng.ws, s.applyStarted.eng.l, s.applyStarted.eng.r,
    exec_apply_of_inRange u hidle hv ((inRange_iff_le_max _ _).2 hx), fun hk => ?_, fun hk hd => ?_, fun hk hd => ?_⟩
  · have hws : s.applyStarted.eng.ws = zextTo s.width (s.act.init s.eng.work s.x.toNat).ws := rfl
    rw [hws, init_of_ne_fe2 hk]
    exact zextTo_toNat_self hfits
  · have hl : s.applyStarted.eng.l = zextTo s.width (s.act.init s.eng.work s.x.toNat).l := rfl
    have hr : s.applyStarted.eng.r = zextTo s.width (s.act.init s.eng.work s.x.toNat).r := rfl
    rw [hl, hr, init_fe2Forward hk hd]
    exact zextTo_div_mod hfits _
  · have hl : s.applyStarted.eng.l = zextTo s.width (s.act.init s.eng.work s.x.toNat).l := rfl
    have hr : s.applyStarted.eng.r = zextTo s.width (s.act.init s.eng.work s.x.toNat).r := rfl
    rw [hl, hr, init_fe2Reverse hk hd, ← finalModulus_eq_ite]
    exact zextTo_div_mod hfits _

end Sys2Proof.Machine
end

section
/-! PROOFS. The engine and the round-function port: the request of a round, the taking of a response, and the hang without
one (42_round_function_apply.md R156, R161 to R163). -/

namespace Sys2Proof.Machine

/-! ## The request and the response of a round -/

/-- Settles O27: the step is `sendRequest` at the index of the round, and the sent argument has W bits because the working
value is in range. -/
theorem runStepSendsRequest : Obligations.RunStepSendsRequest := by
  unfold Obligations.RunStepSendsRequest
  intro s later hagenda hinv hrun hj hsel
  have hbusy : s.eng.phase ≠ .idle := by simp [hrun]
  have hl := hinv.act_legal hbusy
  have hi := selectRound_i_toNat (hinv.j_lt_rounds hbusy hj)
  set i := s.selectRound.eng.i
  have hstep : engineStep { s with agenda := later } =
      { sendRequest (s.act.arg i.toNat s.eng.work) s.selectRound with agenda := later } :=
    (engineStep_start (s := { s with agenda := later }) hrun hj).trans (startRound_of_external hsel)
  refine ⟨i, zextTo s.width (s.act.arg i.toNat s.eng.work), ?_, hi.trans (idx_eq_ite _ _), ?_⟩
  · rw [step_engine hagenda, hstep]
    rfl
  · exact zextTo_toNat_of_lt (((hinv.inRounds hbusy).workBelow hl).arg_lt _)

/-- Settles O29: a response is `endRound` at the index of the outstanding request; an engine event is the stutter. -/
theorem waitTakesResponse : Obligations.WaitTakesResponse := by
  unfold Obligations.WaitTakesResponse
  constructor
  · intro s data later hagenda hinv hwait
    have hbusy : s.eng.phase ≠ .idle := by simp [hwait]
    obtain ⟨-, hj, hi, -, -⟩ := hinv.waitOk hwait
    set t := endRound (sintW s.width data) s
    refine ⟨t.eng.ws, t.eng.l, t.eng.r, ?_, endRound_sameWork (hinv.act_legal hbusy) hj hi (hinv.inRounds hbusy) _⟩
    rw [step_response hagenda, takeResponse_of_wait (s := { s with agenda := later }) data hwait]
    rfl
  · intro s later hagenda hwait
    rw [step_engine hagenda, engineStep_of_wait (s := { s with agenda := later }) hwait]

/-! ## The hang -/

theorem run_succ {M : Host.Core} {s t : M.State} (h : M.step s = .next t) (n : Nat) :
    M.run (n + 1) s = M.run n t := by
  rw [Host.Core.run, h]

theorem core_run_of_step {s t : State} (h : step s = .next t) (n : Nat) : core.run (n + 1) s = core.run n t :=
  run_succ (M := core) h n

/-- Settles O31: each of the engine's own steps in WAIT is the stutter. -/
theorem unansweredRequestHangs : Obligations.UnansweredRequestHangs := by
  unfold Obligations.UnansweredRequestHangs
  intro s n hwait
  constructor
  · intro hagenda
    have hstep : step s = .next s := by rw [step, hagenda, engineStep_of_wait hwait]
    induction n with
    | zero => rfl
    | succ n ih => exact (core_run_of_step hstep n).trans ih
  · induction n with
    | zero => rfl
    | succ n ih =>
      have hstep : step { s with agenda := List.replicate (n + 1) .engine } =
          .next { s with agenda := List.replicate n .engine } :=
        (step_engine rfl).trans
          (congrArg _ (engineStep_of_wait (s := { s with agenda := List.replicate n .engine }) hwait))
      exact (core_run_of_step hstep n).trans ih

end Sys2Proof.Machine
end

section
/-! PROOFS. What the whole machine keeps: which of the agents' steps change the parameters, the staging registers, the
active descriptor and Y (10_state.md R29 to R32, R38, R43). -/

namespace Sys2Proof.Machine

/-! ## The frame of each operation -/

/-- The parameters and the registers that the host stages for a command (10_state.md R25 to R28, R43). -/
structure State.InputsKept (s t : State) : Prop where
  width : t.width = s.width
  rfPresent : t.rfPresent = s.rfPresent
  cfgKind : t.cfgKind = s.cfgKind
  cfgRfsel : t.cfgRfsel = s.cfgRfsel
  rounds : t.rounds = s.rounds
  totalBits : t.totalBits = s.totalBits
  sourceBits : t.sourceBits = s.sourceBits
  targetBits : t.targetBits = s.targetBits
  radixA : t.radixA = s.radixA
  radixB : t.radixB = s.radixB
  x : t.x = s.x

/-- A state with the engine, the outcome, the descriptor and Y of another: all that commands and the engine's steps may
write. -/
def State.withEngineOf (s r : State) : State :=
  { s with done := r.done, err := r.err, ovr := r.ovr, errCode := r.errCode, act := r.act, eng := r.eng, y := r.y }

theorem inputsKept_of_withEngineOf {s t : State} (h : t = s.withEngineOf t) : s.InputsKept t := by
  rw [h]
  exact ⟨rfl, rfl, rfl, rfl, rfl, rfl, rfl, rfl, rfl, rfl, rfl⟩

/-- The engine's own step writes nothing but the engine, the outcome and Y, and the last two in the completing step only. -/
theorem engineStep_cases (s : State) :
    (engineStep s = { s with eng := (engineStep s).eng }) ∨
      (s.eng.phase = .run ∧ s.eng.j = s.act.rounds ∧ engineStep s = finish s) := by
  cases hp : s.eng.phase with
  | idle => exact .inl (by rw [engineStep_of_idle hp])
  | wait => exact .inl (by rw [engineStep_of_wait hp])
  | run =>
    by_cases hj : s.eng.j = s.act.rounds
    · exact .inr ⟨rfl, hj, engineStep_finish hp hj⟩
    · rw [engineStep_start hp hj]
      cases hsel : s.act.rfsel with
      | true => exact .inl (by rw [startRound_of_builtin hsel]; rfl)
      | false => exact .inl (by rw [startRound_of_external hsel]; rfl)

/-- A response writes nothing but the engine. -/
theorem takeResponse_frame (data : Word) (s : State) :
    takeResponse data s = { s with eng := (takeResponse data s).eng } := by
  by_cases hwait : s.eng.phase = .wait
  · rw [takeResponse_of_wait data hwait]
    rfl
  · rw [takeResponse_ignored data hwait]

theorem engineStep_withEngineOf (s : State) : engineStep s = s.withEngineOf (engineStep s) := by
  obtain h | ⟨-, -, h⟩ := engineStep_cases s
  all_goals
    rw [h]
    rfl

/-- A command writes nothing but the engine, the outcome and the descriptor, whether it is dropped or accepted. -/
theorem IsCommand.whenIdle_frame {c : State → State} (hc : IsCommand c) (s : State) :
    whenIdle c s = s.withEngineOf (whenIdle c s) ∧ (whenIdle c s).y = s.y := by
  by_cases hidle : s.eng.phase = .idle
  · rw [whenIdle_of_idle c hidle]
    obtain (⟨cause, h⟩ | ⟨d, h⟩) | ⟨-, -, -, h⟩ := hc.ends_or_starts hidle
    all_goals
      rw [h]
      exact ⟨rfl, rfl⟩
  · rw [whenIdle_of_busy c (busy_eq_true hidle)]
    exact ⟨rfl, rfl⟩

/-! ## The frame of a host transaction -/

/-- What a host transaction can do, with the commands taken together: a read, a write that is ignored, a store, a command. -/
theorem exec_cases_isCommand {i : Instr} {s t : State} (h : exec i s = .next t) :
    (∃ rsv index, t = { s with readData := busRead rsv index s }) ∨ t = s ∨
      (∃ index data, i = .regWrite 0#3 index data ∧ RegName.ofIndex index ≠ .cmd ∧
        t = stageReg (.ofIndex index) data s) ∨
      (∃ c, IsCommand c ∧ t = whenIdle c s) := by
  obtain ⟨rsv, index, -, ht⟩ | ⟨_, _, _, -, -, ht⟩ | ⟨index, data, _, hi, rfl, hr, ht⟩ | ⟨_, data, -, -, ht⟩ |
    ⟨_, -, ht⟩ | ⟨_, -, ht⟩ | ⟨_, -, ht⟩ := exec_cases h
  · exact .inl ⟨rsv, index, ht⟩
  · exact .inr (.inl ht)
  · exact .inr (.inr (.inl ⟨index, data, hi, hr, ht⟩))
  · exact .inr (.inr (.inr ⟨_, commandOf_cases _, ht⟩))
  · exact .inr (.inr (.inr ⟨_, .inl rfl, ht⟩))
  · exact .inr (.inr (.inr ⟨_, .inr (.inl rfl), ht⟩))
  · exact .inr (.inr (.inr ⟨_, .inr (.inr (.inl rfl)), ht⟩))

/-- No host transaction changes Y (10_state.md R29). -/
theorem exec_y {i : Instr} {s t : State} (h : exec i s = .next t) : t.y = s.y := by
  obtain ⟨_, _, rfl⟩ | rfl | ⟨_, _, -, -, rfl⟩ | ⟨c, hc, rfl⟩ := exec_cases_isCommand h
  · rfl
  · rfl
  · exact (stageReg_engineKept _ _ _).y
  · exact (hc.whenIdle_frame s).2

/-- The stores are the only transactions that change a staging register. -/
theorem exec_inputsKept_or_stages {i : Instr} {s t : State} (h : exec i s = .next t) :
    s.InputsKept t ∨ ∃ index data, i = .regWrite 0#3 index data ∧ RegName.ofIndex index ≠ .cmd ∧
      t = stageReg (.ofIndex index) data s := by
  obtain ⟨_, _, rfl⟩ | rfl | hstage | ⟨c, hc, rfl⟩ := exec_cases_isCommand h
  · exact .inl ⟨rfl, rfl, rfl, rfl, rfl, rfl, rfl, rfl, rfl, rfl, rfl⟩
  · exact .inl ⟨rfl, rfl, rfl, rfl, rfl, rfl, rfl, rfl, rfl, rfl, rfl⟩
  · exact .inr hstage
  · exact .inl (inputsKept_of_withEngineOf (hc.whenIdle_frame s).1)

/-! ## The frame of a step -/

/-- Only a store, the platform and reset change the parameters or a staging register. -/
theorem step_inputsKept_or {s t : State} (h : step s = .next t) :
    s.InputsKept t ∨
      (∃ tx later index data, s.agenda = .host tx :: later ∧ decode s.width tx = .regWrite 0#3 index data ∧
        RegName.ofIndex index ≠ .cmd ∧ t = stageReg (.ofIndex index) data { s with agenda := later }) ∨
      (∃ level later, s.agenda = .rfPresent level :: later ∧ t = { s with agenda := later, rfPresent := level }) ∨
      (∃ later, s.agenda = .reset :: later ∧ t = resetEngine { s with agenda := later }) := by
  have of_agenda {later : List Event} (hk : State.InputsKept { s with agenda := later } t) : s.InputsKept t := by
    obtain ⟨hw, hp, h1, h2, h3, h4, h5, h6, h7, h8, h9⟩ := hk
    exact ⟨hw, hp, h1, h2, h3, h4, h5, h6, h7, h8, h9⟩
  obtain ⟨-, rfl⟩ | ⟨tx, later, ha, hexec⟩ | ⟨later, -, rfl⟩ | ⟨data, later, -, rfl⟩ | hlevel | hreset := step_cases h
  · exact .inl (inputsKept_of_withEngineOf (engineStep_withEngineOf s))
  · obtain hkept | ⟨index, data, hi, hr, ht⟩ := exec_inputsKept_or_stages hexec
    · exact .inl (of_agenda hkept)
    · exact .inr (.inl ⟨tx, later, index, data, ha, hi, hr, ht⟩)
  · exact .inl (of_agenda (inputsKept_of_withEngineOf (engineStep_withEngineOf _)))
  · rw [takeResponse_frame]
    exact .inl ⟨rfl, rfl, rfl, rfl, rfl, rfl, rfl, rfl, rfl, rfl, rfl⟩
  · exact .inr (.inr (.inl hlevel))
  · exact .inr (.inr (.inr hreset))

/-- Settles O41: none of the steps that change more than the engine writes W, and of them only the platform's writes
rf_present. -/
theorem parametersKeptByStep : Obligations.ParametersKeptByStep := by
  unfold Obligations.ParametersKeptByStep
  intro s t h
  obtain hkept | ⟨tx, later, index, data, -, -, -, rfl⟩ | ⟨level, later, ha, rfl⟩ | ⟨later, -, rfl⟩ :=
    step_inputsKept_or h
  · exact ⟨hkept.width, .inl hkept.rfPresent⟩
  · obtain ⟨-, -, -, -, -, -, -, hw, hp, -, -⟩ := stageReg_frame (.ofIndex index) data { s with agenda := later }
    exact ⟨hw, .inl hp⟩
  · exact ⟨rfl, .inr ⟨level, later, ha, rfl⟩⟩
  · exact ⟨rfl, .inl rfl⟩

/-- The indices whose writes are stored, and those whose writes change nothing (10_state.md R21). -/
theorem ofIndex_staging_or : ∀ index : BitVec 4, RegName.ofIndex index ≠ .cmd →
    (3 ≤ index.toNat ∧ index.toNat ≤ 0xA) ∨
      (index = 0x0#4 ∨ index = 0x2#4 ∨ 0xB ≤ index.toNat) := by decide

theorem stageReg_readOnly {index : BitVec 4} (h : index = 0x0#4 ∨ index = 0x2#4 ∨ 0xB ≤ index.toNat) (data : Word)
    (s : State) : stageReg (.ofIndex index) data s = s := by
  obtain hr | hr | hr | hr := ofIndex_readOnly index h
  all_goals rw [hr, stageReg]

theorem stageReg_statusWord (r : RegName) (data : Word) (s : State) :
    (stageReg r data s).statusWord = s.statusWord := by
  cases r <;> rfl

/-- Settles O40: a store at an index outside 0x3 to 0xA changes nothing, and one inside changes a staging register alone. -/
theorem stagingChangedOnlyByRegWrite : Obligations.StagingChangedOnlyByRegWrite := by
  unfold Obligations.StagingChangedOnlyByRegWrite
  intro s t h
  obtain hkept | ⟨tx, later, index, data, ha, hi, hr, rfl⟩ | ⟨level, later, ha, rfl⟩ | ⟨later, ha, -⟩ :=
    step_inputsKept_or h
  · obtain ⟨-, -, h1, h2, h3, h4, h5, h6, h7, h8, h9⟩ := hkept
    exact .inl ⟨h1, h2, h3, h4, h5, h6, h7, h8, h9⟩
  · obtain ⟨hlow, hhigh⟩ | hro := ofIndex_staging_or index hr
    · have hframe := stageReg_engineKept (.ofIndex index) data { s with agenda := later }
      exact .inr (.inl ⟨tx, later, index, data, ha, hi, hlow, hhigh, hframe.act, hframe.eng, hframe.y,
        stageReg_statusWord _ _ _⟩)
    · rw [stageReg_readOnly hro]
      exact .inl ⟨rfl, rfl, rfl, rfl, rfl, rfl, rfl, rfl, rfl⟩
  · exact .inl ⟨rfl, rfl, rfl, rfl, rfl, rfl, rfl, rfl, rfl⟩
  · exact .inr (.inr ⟨later, ha⟩)

/-- Settles O39: of the engine's steps only the completing one writes Y, and of the others only reset. -/
theorem resultChangedOnlyByCompletion : Obligations.ResultChangedOnlyByCompletion := by
  unfold Obligations.ResultChangedOnlyByCompletion
  intro s t h hy
  have completes {later : List Event} (ht : t = engineStep { s with agenda := later }) :
      s.eng.phase = .run ∧ s.eng.j = s.act.rounds ∧ t.eng.phase = .idle ∧ t.done = true := by
    obtain heng | ⟨hrun, hj, hfinish⟩ := engineStep_cases { s with agenda := later }
    · exact absurd (congrArg State.y (ht.trans heng)) hy
    · rw [ht, hfinish]
      exact ⟨hrun, hj, rfl, rfl⟩
  obtain ⟨ha, ht⟩ | ⟨tx, later, -, hexec⟩ | ⟨later, ha, ht⟩ | ⟨data, later, -, ht⟩ | ⟨level, later, -, ht⟩ |
    ⟨later, ha, -⟩ := step_cases h
  · exact .inl ⟨.inl ha, completes ht⟩
  · exact absurd (exec_y hexec) hy
  · exact .inl ⟨.inr ⟨later, ha⟩, completes ht⟩
  · exact absurd (congrArg State.y (ht.trans (takeResponse_frame _ _))) hy
  · exact absurd (congrArg State.y ht) hy
  · exact .inr ⟨later, ha⟩

/-! ## The active descriptor -/

theorem engineStep_act (s : State) : (engineStep s).act = s.act := by
  obtain h | ⟨-, -, h⟩ := engineStep_cases s
  all_goals exact (congrArg State.act h).trans rfl

theorem applyCommand_act (s : State) : (applyCommand s).act = s.act := by
  obtain ⟨-, h⟩ | ⟨-, -, h⟩ | ⟨-, -, h⟩ := applyCommand_cases s
  all_goals exact (congrArg State.act h).trans rfl

theorem whenIdle_act {c : State → State} (hc : ∀ s, (c s).act = s.act) (s : State) : (whenIdle c s).act = s.act := by
  unfold whenIdle
  split
  · rfl
  · exact hc (accept s)

/-- A REG_WRITE that the decoder answers presents no command but an illegal one (log 9). -/
theorem commandOf_of_wellFormed {w : Width} {index : BitVec 4} {data : Word}
    (hwf : (Instr.regWrite 0#3 index data).wellFormed w = true) (hcmd : RegName.ofIndex index = .cmd) :
    commandOf (opOf data) = fail .illegalCmd := by
  have hindex : ∀ index : BitVec 4, RegName.ofIndex index = .cmd → index = cmdIndex := by decide
  obtain rfl := hindex index hcmd
  simp only [Instr.wellFormed, isCommandWrite, decide_true, Bool.true_and, Bool.and_eq_true, Bool.not_eq_true',
    Bool.or_eq_false_iff, decide_eq_false_iff_not] at hwf
  obtain ⟨-, ⟨h1, h2⟩, h3⟩ := hwf
  rw [commandOf, if_neg h1, if_neg h2, if_neg h3]

/-- A CONFIGURE changes the descriptor only by loading a valid, forward one (10_state.md R30, R32). -/
theorem exec_configure_act {s t : State} {u : BitVec 56} (h : exec (.configure u) s = .next t) :
    t.act = s.act ∨ (t.act.valid = true ∧ t.act.dir = false ∧ t.done = true) := by
  obtain ⟨-, rfl⟩ | ⟨-, c, -, rfl⟩ | ⟨-, d, hd, rfl⟩ := exec_configure_cases h
  · exact .inl rfl
  · exact .inl rfl
  · obtain ⟨hvalid, -, hdir⟩ := validate_ok_shape hd
    exact .inr ⟨hvalid, hdir, rfl⟩

/-- An INVERT changes the descriptor only by toggling DIR (45_width_reversal.md R240). -/
theorem exec_invert_act {s t : State} {u : BitVec 56} (h : exec (.invert u) s = .next t) :
    t.act = s.act ∨ (t.act = s.act.inverse ∧ t.done = true) := by
  by_cases hidle : s.eng.phase = .idle
  · cases hv : s.act.valid with
    | false =>
      rw [exec_invert_of_not_valid u hidle hv, Host.Outcome.next.injEq] at h
      exact .inl (h ▸ rfl)
    | true =>
      obtain ⟨hdone, hact, -⟩ := invert_of_valid_frame hidle hv h
      exact .inr ⟨hact, hdone⟩
  · exact .inl (exec_engineKept hidle h).act

/-- Of the transactions that the decoder answers, only CONFIGURE and INVERT change the descriptor. -/
theorem exec_act_cases {w : Width} {i : Instr} {s t : State} (hwf : i.wellFormed w = true) (h : exec i s = .next t) :
    t.act = s.act ∨
      (∃ u, i = .configure u ∧ t.act.valid = true ∧ t.act.dir = false ∧ t.done = true) ∨
      (∃ u, i = .invert u ∧ t.act = s.act.inverse ∧ t.done = true) := by
  obtain ⟨_, _, -, rfl⟩ | ⟨_, _, _, -, -, rfl⟩ | ⟨_, _, _, -, -, -, rfl⟩ | ⟨index, data, rfl, hcmd, rfl⟩ |
    ⟨u, rfl, -⟩ | ⟨u, -, rfl⟩ | ⟨u, rfl, -⟩ := exec_cases h
  · exact .inl rfl
  · exact .inl rfl
  · exact .inl (stageReg_engineKept _ _ _).act
  · rw [commandOf_of_wellFormed hwf hcmd]
    exact .inl (whenIdle_act (c := fail .illegalCmd) (fun _ => rfl) s)
  · obtain hact | hloaded := exec_configure_act h
    · exact .inl hact
    · exact .inr (.inl ⟨u, rfl, hloaded⟩)
  · exact .inl (whenIdle_act applyCommand_act s)
  · obtain hact | htoggled := exec_invert_act h
    · exact .inl hact
    · exact .inr (.inr ⟨u, rfl, htoggled⟩)

/-- Settles O38: of the steps only host transactions and reset reach the descriptor. -/
theorem descriptorChangedOnlyByConfigureInvertReset : Obligations.DescriptorChangedOnlyByConfigureInvertReset := by
  unfold Obligations.DescriptorChangedOnlyByConfigureInvertReset
  intro s t h
  obtain ⟨-, rfl⟩ | ⟨tx, later, ha, hexec⟩ | ⟨later, -, rfl⟩ | ⟨data, later, -, rfl⟩ | ⟨level, later, -, rfl⟩ |
    ⟨later, ha, rfl⟩ := step_cases h
  · exact .inl (engineStep_act s)
  · obtain hact | ⟨u, hi, hvalid, hdir, hdone⟩ | ⟨u, hi, hact, hdone⟩ :=
      exec_act_cases (decode_wellFormed s.width tx) hexec
    · exact .inl hact
    · exact .inr (.inl ⟨tx, later, u, ha, hi, hvalid, hdir, hdone⟩)
    · exact .inr (.inr (.inl ⟨tx, later, u, ha, hi, hact, hdone⟩))
  · exact .inl (engineStep_act _)
  · rw [takeResponse_frame]
    exact .inl rfl
  · exact .inl rfl
  · exact .inr (.inr (.inr ⟨later, ha, rfl⟩))

end Sys2Proof.Machine
end

section
/-! PROOFS. The invariant: it holds after reset, and every step of every agent keeps it (10_state.md R21, R24, R30, R34 to R36;
42_round_function_apply.md R162). -/

namespace Sys2Proof.Machine

/-! ## The outcome bits (10_state.md R24; 60_exceptions.md R260) -/

theorem code_toNat_le (cause : ErrorCause) : cause.code.toNat ≤ 12 := by cases cause <;> decide

section statusOk
variable {s t : State}

/-- No outcome yet, in any phase. -/
theorem statusOk_of_cleared (hdone : t.done = false) (herr : t.err = false) (hcode : t.errCode = 0#4) :
    t.StatusOk := by
  simp [State.StatusOk, hdone, herr, hcode]

theorem statusOk_of_done (hidle : t.eng.phase = .idle) (hdone : t.done = true) (herr : t.err = false)
    (hcode : t.errCode = 0#4) : t.StatusOk := by
  simp [State.StatusOk, busy_eq_false hidle, hdone, herr, hcode]

theorem statusOk_of_error {cause : ErrorCause} (hidle : t.eng.phase = .idle) (hdone : t.done = false)
    (herr : t.err = true) (hcode : t.errCode = cause.code) : t.StatusOk := by
  simp [State.StatusOk, busy_eq_false hidle, hdone, herr, hcode, code_ne_zero, code_toNat_le]

/-- An executing APPLY has no outcome yet. -/
theorem State.StatusOk.cleared_of_busy (h : s.StatusOk) (hbusy : s.eng.phase ≠ .idle) :
    s.done = false ∧ s.err = false ∧ s.errCode = 0#4 := by
  obtain ⟨-, hdone, herr, hcode, -⟩ := h
  rw [busy_eq_true hbusy] at hdone herr
  have herr' : s.err = false := by simpa using herr
  refine ⟨by simpa using hdone, herr', ?_⟩
  rw [herr'] at hcode
  simpa using hcode

theorem State.StatusOk.of_engineKept (h : s.StatusOk) (hk : s.EngineKept t) : t.StatusOk := by
  unfold State.StatusOk State.busy
  rw [hk.eng, hk.done, hk.err, hk.errCode]
  exact h

end statusOk

/-! ## The words have W bits (10_state.md R21, log 1) -/

/-- A 32-bit value fits a word of either width. -/
theorem fitsIn_of_lt (w : Width) {v : Word} (h : v.toNat < 2 ^ 32) : fitsIn w v = true := by
  rw [fitsIn_iff]
  exact h.trans_le (Nat.pow_le_pow_right two_pos (by cases w <;> decide))

theorem capWord_fits (w : Width) : fitsIn w (capWord w) = true := by cases w <;> decide

theorem statusWord_fits (s : State) : fitsIn s.width s.statusWord = true := by
  apply fitsIn_of_lt
  have := s.errCode.isLt
  have := s.act.kind.code.isLt
  have := s.busy.toNat_lt
  have := s.done.toNat_lt
  have := s.err.toNat_lt
  have := s.ovr.toNat_lt
  have := s.act.valid.toNat_lt
  have := s.act.dir.toNat_lt
  have := s.act.rfsel.toNat_lt
  rw [statusWord_toNat]
  omega

theorem cfgWord_fits (s : State) : fitsIn s.width s.cfgWord = true := by
  apply fitsIn_of_lt
  have := s.cfgKind.isLt
  have := s.cfgRfsel.toNat_lt
  rw [cfgWord_toNat]
  omega

theorem zeroExtend_fits (w : Width) (v : BitVec 32) : fitsIn w (v.setWidth 64) = true :=
  fitsIn_of_lt w (by rw [zeroExtend_toNat]; exact v.isLt)

section words
variable {s : State} (h : s.WordsFit)
include h

theorem State.WordsFit.readReg (r : RegName) : fitsIn s.width (readReg r s) = true := by
  obtain ⟨ha, hb, hx, hy, -⟩ := h
  cases r with
  | cap => exact capWord_fits s.width
  | status => exact statusWord_fits s
  | cfg => exact cfgWord_fits s
  | cmd | reserved => exact zero_fits s.width
  | rounds | totalBits | sourceBits | targetBits => exact zeroExtend_fits s.width _
  | radixA => exact ha
  | radixB => exact hb
  | x => exact hx
  | y => exact hy

theorem State.WordsFit.withReadData {v : Word} (hv : fitsIn s.width v = true) :
    State.WordsFit { s with readData := v } := by
  obtain ⟨ha, hb, hx, hy, hws, hl, hr, hreq, -⟩ := h
  exact ⟨ha, hb, hx, hy, hws, hl, hr, hreq, hv⟩

theorem State.WordsFit.busRead (rsv : BitVec 3) (index : BitVec 4) : fitsIn s.width (busRead rsv index s) = true := by
  unfold Machine.busRead
  split
  · exact h.readReg _
  · exact zero_fits s.width

theorem State.WordsFit.stageReg (r : RegName) (data : Word) : (stageReg r data s).WordsFit := by
  have hdata := truncTo_fits s.width data
  obtain ⟨ha, hb, hx, hy, hws, hl, hr, hreq, hread⟩ := h
  cases r with
  | radixA => exact ⟨hdata, hb, hx, hy, hws, hl, hr, hreq, hread⟩
  | radixB => exact ⟨ha, hdata, hx, hy, hws, hl, hr, hreq, hread⟩
  | x => exact ⟨ha, hb, hdata, hy, hws, hl, hr, hreq, hread⟩
  | cap | cmd | status | cfg | rounds | totalBits | sourceBits | targetBits | y | reserved =>
    exact ⟨ha, hb, hx, hy, hws, hl, hr, hreq, hread⟩

theorem State.WordsFit.setWork (st : Work) : (s.setWork st).WordsFit := by
  obtain ⟨ha, hb, hx, hy, -, -, -, hreq, hread⟩ := h
  exact ⟨ha, hb, hx, hy, zextTo_fits _ _, zextTo_fits _ _, zextTo_fits _ _, hreq, hread⟩

theorem State.WordsFit.sendRequest (v : Nat) : (sendRequest v s).WordsFit := by
  obtain ⟨ha, hb, hx, hy, hws, hl, hr, -, hread⟩ := h
  exact ⟨ha, hb, hx, hy, hws, hl, hr, zextTo_fits _ _, hread⟩

theorem State.WordsFit.finish : (finish s).WordsFit := by
  obtain ⟨ha, hb, hx, -, hws, hl, hr, hreq, hread⟩ := h
  exact ⟨ha, hb, hx, zextTo_fits _ _, hws, hl, hr, hreq, hread⟩

end words

theorem resetWith_wordsFit (w : Width) (p : Bool) : (State.resetWith w p).WordsFit := by
  have h := zero_fits w
  exact ⟨h, h, h, h, h, h, h, h, h⟩

/-! ## The invariant of a state in each phase -/

/-- In IDLE only the words, the outcome, the descriptor and the withdrawn request count. -/
theorem inv_of_idle {t : State} (hidle : t.eng.phase = .idle) (hreq : t.eng.reqValid = false) (hwords : t.WordsFit)
    (hstatus : t.StatusOk) (hact : t.act.Legal t.width ∨ t.act = .reset) : t.Inv where
  wordsFit := hwords
  statusOk := hstatus
  actOk := hact
  requestIffWait := by simp [hidle, hreq]
  busyOk := fun hbusy => absurd hidle hbusy
  waitOk := fun hwait => by simp [hidle] at hwait

/-- In RUN no request is outstanding. -/
theorem inv_of_run {t : State} (hrun : t.eng.phase = .run) (hreq : t.eng.reqValid = false) (hwords : t.WordsFit)
    (hstatus : t.StatusOk) (hact : t.act.Legal t.width) (hj : t.eng.j.toNat ≤ t.act.rounds.toNat)
    (hrange : t.act.InRounds t.eng.j.toNat t.eng.work) : t.Inv where
  wordsFit := hwords
  statusOk := hstatus
  actOk := .inl hact
  requestIffWait := by simp [hrun, hreq]
  busyOk := fun _ => ⟨hact.1, hj, hrange⟩
  waitOk := fun hwait => by simp [hrun] at hwait

/-- After reset every word is 0 and nothing is in progress. -/
theorem inv_resetWith (w : Width) (p : Bool) : (State.resetWith w p).Inv :=
  inv_of_idle rfl rfl (resetWith_wordsFit w p) (statusOk_of_cleared rfl rfl rfl) (.inr rfl)

/-- Settles O36: State.reset is the reset state of some parameters. -/
theorem invariantAtReset : Obligations.InvariantAtReset := by
  unfold Obligations.InvariantAtReset
  exact ⟨inv_resetWith, inv_resetWith .w64 true⟩

/-! ## Steps that do not reach the engine -/

section kept
variable {s t : State} (hinv : s.Inv)
include hinv

theorem State.Inv.of_engineKept (hk : s.EngineKept t) (hwords : t.WordsFit) : t.Inv where
  wordsFit := hwords
  statusOk := hinv.statusOk.of_engineKept hk
  actOk := by
    rw [hk.act, hk.width]
    exact hinv.actOk
  requestIffWait := by
    rw [hk.eng]
    exact hinv.requestIffWait
  busyOk := by
    rw [hk.eng, hk.act]
    exact hinv.busyOk
  waitOk := by
    unfold State.RequestOk
    rw [hk.eng, hk.act]
    exact hinv.waitOk

theorem State.Inv.withAgenda (later : List Event) : State.Inv { s with agenda := later } :=
  hinv.of_engineKept (engineKept_agenda s later) hinv.wordsFit

end kept

/-! ## The descriptor that CONFIGURE loads (10_state.md R30; 41_range_check_configure.md R137) -/

section legal
variable {w : Width} {d : Descriptor}

theorem legal_balanced_iff (hk : d.kind = .balanced) :
    d.Legal w ↔ d.valid = true ∧ d.rounds.toNat < 2 ^ 31 ∧ d.totalBits.toNat ≤ w.bits ∧ d.totalBits.toNat % 2 = 0 ∧
      d.sourceBits.toNat = d.totalBits.toNat / 2 ∧ d.targetBits.toNat = d.totalBits.toNat / 2 ∧ d.radixA = 0 ∧
      d.radixB = 0 := by
  simp only [Descriptor.Legal, hk]

theorem legal_unbalanced_iff (hk : d.kind = .unbalanced) :
    d.Legal w ↔ d.valid = true ∧ d.rounds.toNat < 2 ^ 31 ∧ d.totalBits.toNat ≤ w.bits ∧
      d.sourceBits.toNat + d.targetBits.toNat ≤ d.totalBits.toNat ∧ d.radixA = 0 ∧ d.radixB = 0 := by
  simp only [Descriptor.Legal, hk]

theorem legal_radix_iff (hk : d.kind = .fe1 ∨ d.kind = .fe2) :
    d.Legal w ↔ d.valid = true ∧ d.rounds.toNat < 2 ^ 31 ∧ d.totalBits = 0 ∧ d.sourceBits = 0 ∧ d.targetBits = 0 ∧
      d.radixA.toNat ≤ maxs w ∧ d.radixB.toNat ≤ maxs w ∧ d.radixA.toNat * d.radixB.toNat ≤ maxs w := by
  obtain hk | hk := hk <;> simp only [Descriptor.Legal, hk]

end legal

/-- A radix that passes its check is at most `MAXS` and is stored as it is (41_range_check_configure.md R126). -/
theorem radix_of_nonneg {w : Width} {v : Word} (hf : fitsIn w v = true) (h : 0 ≤ sintW w v) :
    BitVec.ofInt 64 (sintW w v) = v ∧ sintW w v = v.toNat ∧ v.toNat ≤ maxs w := by
  obtain ⟨heq, hlt⟩ := sintW_nonneg hf h
  exact ⟨ofInt_sintW hf h, heq, Nat.le_pred_of_lt hlt⟩

/-- CONFIGURE loads legal descriptors only. -/
theorem validate_legal {s : State} {d : Descriptor} (hfits : s.WordsFit) (h : validate s = .ok d) :
    d.Legal s.width := by
  obtain ⟨k, f, -, hrounds, hdom, -, rfl⟩ := validate_ok h
  have hr : (BitVec.ofInt 32 s.opRounds).toNat < 2 ^ 31 := by
    rw [State.opRounds, BitVec.ofInt_toInt]
    exact (toInt_of_nonneg hrounds).2
  obtain ⟨rfl, h0, hW, heven, rfl⟩ | ⟨rfl, h0, hW, hS, hTG, hsum, rfl⟩ | ⟨hk, ha, hb, hmul, rfl⟩ := checkDomain_ok hdom
  · have hT := (toInt_of_nonneg h0).1
    rw [State.opTotalBits, hT] at hW heven
    rw [legal_balanced_iff rfl]
    simp only [mkDescriptor, State.opTotalBits, BitVec.ofInt_toInt, ofInt_half h0, BitVec.toNat_udiv]
    exact ⟨trivial, hr, by omega, by omega, rfl, rfl, rfl, rfl⟩
  · have hT := (toInt_of_nonneg h0).1
    have hS := (toInt_of_nonneg hS).1
    have hTG := (toInt_of_nonneg hTG).1
    rw [State.opTotalBits, hT] at hW
    rw [State.opTotalBits, State.opSourceBits, State.opTargetBits, hT, hS, hTG] at hsum
    rw [legal_unbalanced_iff rfl]
    simp only [mkDescriptor, State.opTotalBits, State.opSourceBits, State.opTargetBits, BitVec.ofInt_toInt]
    exact ⟨trivial, hr, by omega, by omega, rfl, rfl⟩
  · obtain ⟨hfa, hfb, -⟩ := hfits
    obtain ⟨hA, haeq, hamax⟩ := radix_of_nonneg hfa ha
    obtain ⟨hB, hbeq, hbmax⟩ := radix_of_nonneg hfb hb
    rw [State.opA, State.opB, haeq, hbeq] at hmul
    rw [legal_radix_iff hk]
    simp only [mkDescriptor, State.opA, State.opB, hA, hB]
    exact ⟨trivial, hr, rfl, rfl, rfl, hamax, hbmax, by exact_mod_cast hmul⟩

/-! ## Commands -/

section commands
variable {s : State} (hinv : s.Inv) (hidle : s.eng.phase = .idle)
include hinv hidle

/-- A command that fails leaves the invariant: it changes the outcome alone. -/
theorem State.Inv.failed (cause : ErrorCause) :
    State.Inv { s with done := false, err := true, ovr := false, errCode := cause.code } :=
  inv_of_idle hidle (hinv.reqValid_of_idle hidle) hinv.wordsFit (statusOk_of_error hidle rfl rfl rfl) hinv.actOk

/-- A command that completes keeps the invariant when its descriptor is legal. -/
theorem State.Inv.completed {d : Descriptor} (hd : d.Legal s.width) :
    State.Inv { s with done := true, err := false, ovr := false, errCode := 0#4, act := d } :=
  inv_of_idle hidle (hinv.reqValid_of_idle hidle) hinv.wordsFit (statusOk_of_done hidle rfl rfl rfl) (.inl hd)

/-- An APPLY starts with `init` of a value of the domain. -/
theorem State.Inv.applyStarted (hvalid : s.act.valid = true) (hx : s.act.inRange s.opX = true) :
    s.applyStarted.Inv := by
  have hl := hinv.legal_of_valid hvalid
  have hrange := init_inRounds s.eng.work hx
  have hwords : (accept s).WordsFit := hinv.wordsFit
  refine inv_of_run rfl (hinv.reqValid_of_idle hidle) (hwords.setWork _) (statusOk_of_cleared rfl rfl rfl) hl
    (Nat.zero_le _) ?_
  exact (setWork_sameWork (accept s) hl hrange).symm.inRounds hrange

theorem State.Inv.configureCommand : (configureCommand (accept s)).Inv := by
  obtain ⟨cause, -, h⟩ | ⟨d, hd, h⟩ := configureCommand_cases (accept s)
  · rw [h, fail_accept cause hidle]
    exact hinv.failed hidle cause
  · rw [h, complete_accept d hidle]
    exact hinv.completed hidle (validate_legal (s := accept s) hinv.wordsFit hd)

theorem State.Inv.applyCommand : (applyCommand (accept s)).Inv := by
  obtain ⟨-, h⟩ | ⟨-, -, h⟩ | ⟨hvalid, hx, h⟩ := applyCommand_cases (accept s)
  · rw [h, fail_accept _ hidle]
    exact hinv.failed hidle _
  · rw [h, fail_accept _ hidle]
    exact hinv.failed hidle _
  · rw [h]
    exact hinv.applyStarted hidle hvalid hx

theorem State.Inv.invertCommand : (invertCommand (accept s)).Inv := by
  obtain ⟨-, h⟩ | ⟨hvalid, h⟩ := invertCommand_cases (accept s)
  · rw [h, fail_accept _ hidle]
    exact hinv.failed hidle _
  · rw [h, complete_accept _ hidle]
    exact hinv.completed hidle (inverse_legal (hinv.legal_of_valid hvalid))

end commands

/-- A command keeps the invariant, dropped or accepted. -/
theorem State.Inv.whenIdle {s : State} (hinv : s.Inv) {c : State → State} (hc : IsCommand c) :
    (whenIdle c s).Inv := by
  by_cases hidle : s.eng.phase = .idle
  · rw [whenIdle_of_idle c hidle]
    obtain rfl | rfl | rfl | rfl := hc
    · exact hinv.configureCommand hidle
    · exact hinv.applyCommand hidle
    · exact hinv.invertCommand hidle
    · rw [fail_accept _ hidle]
      exact hinv.failed hidle _
  · refine hinv.of_engineKept (whenIdle_engineKept c hidle) ?_
    rw [whenIdle_of_busy c (busy_eq_true hidle)]
    exact hinv.wordsFit

/-- Every host transaction keeps the invariant. -/
theorem State.Inv.exec {i : Instr} {s t : State} (hinv : s.Inv) (h : exec i s = .next t) : t.Inv := by
  obtain ⟨rsv, index, rfl⟩ | rfl | ⟨index, data, -, -, rfl⟩ | ⟨c, hc, rfl⟩ := exec_cases_isCommand h
  · exact hinv.of_engineKept ⟨rfl, rfl, rfl, rfl, rfl, rfl, rfl⟩
      (hinv.wordsFit.withReadData (hinv.wordsFit.busRead rsv index))
  · exact hinv
  · exact hinv.of_engineKept (stageReg_engineKept _ _ _) (hinv.wordsFit.stageReg _ _)
  · exact hinv.whenIdle hc

/-! ## The engine's own steps -/

section engine
variable {s : State} (hinv : s.Inv)
include hinv

theorem State.Inv.reqValid_of_run (hrun : s.eng.phase = .run) : s.eng.reqValid = false := by
  rw [Bool.eq_false_iff, Ne, hinv.requestIffWait, hrun]
  decide

/-- The registers after a round: `upd` keeps the range, and one more round is done. -/
theorem State.Inv.endRound_ok (hbusy : s.eng.phase ≠ .idle) (hj : s.eng.j.toNat < s.act.rounds.toNat)
    {i : BitVec 32} (hi : i.toNat = s.act.idx s.eng.j.toNat) (F : Int) :
    let t := endRound F { s with eng := { s.eng with i := i } }
    t.WordsFit ∧ t.StatusOk ∧ t.eng.j.toNat ≤ t.act.rounds.toNat ∧ t.act.InRounds t.eng.j.toNat t.eng.work := by
  intro t
  have hl := hinv.act_legal hbusy
  have hrange := hinv.inRounds hbusy
  have hdone : t.eng.j.toNat = s.eng.j.toNat + 1 := endRound_j_toNat (s := { s with eng := { s.eng with i := i } }) hj F
  obtain ⟨hd, he, hc⟩ := hinv.statusOk.cleared_of_busy hbusy
  have hwords : State.WordsFit { s with eng := { s.eng with i := i } } := hinv.wordsFit
  refine ⟨hwords.setWork _, statusOk_of_cleared hd he hc, hdone.trans_le hj, ?_⟩
  rw [hdone]
  have hsame := endRound_sameWork (s := { s with eng := { s.eng with i := i } }) hl hj hi hrange F
  exact hsame.symm.inRounds (hi ▸ upd_inRounds hl hj hrange F)

theorem State.Inv.finish (hrun : s.eng.phase = .run) : (finish s).Inv := by
  have hbusy : s.eng.phase ≠ .idle := by simp [hrun]
  exact inv_of_idle rfl (hinv.reqValid_of_run hrun) hinv.wordsFit.finish (statusOk_of_done rfl rfl rfl rfl)
    (.inl (hinv.act_legal hbusy))

theorem State.Inv.builtinRound (hrun : s.eng.phase = .run) (hj : s.eng.j ≠ s.act.rounds) (F : Int) :
    (endRound F s.selectRound).Inv := by
  have hbusy : s.eng.phase ≠ .idle := by simp [hrun]
  have hlt := hinv.j_lt_rounds hbusy hj
  obtain ⟨hwords, hstatus, hle, hrange⟩ := hinv.endRound_ok hbusy hlt (selectRound_i_toNat hlt) F
  exact inv_of_run hrun (hinv.reqValid_of_run hrun) hwords hstatus (hinv.act_legal hbusy) hle hrange

/-- The outstanding request is that of the round in progress, with its argument whole. -/
theorem State.Inv.sendRequest (hrun : s.eng.phase = .run) (hj : s.eng.j ≠ s.act.rounds) (hsel : s.act.rfsel = false) :
    (sendRequest (s.act.arg s.selectRound.eng.i.toNat s.eng.work) s.selectRound).Inv := by
  have hbusy : s.eng.phase ≠ .idle := by simp [hrun]
  have hlt := hinv.j_lt_rounds hbusy hj
  have hl := hinv.act_legal hbusy
  have hrange := hinv.inRounds hbusy
  obtain ⟨hd, he, hc⟩ := hinv.statusOk.cleared_of_busy hbusy
  have hwords : s.selectRound.WordsFit := hinv.wordsFit
  exact {
    wordsFit := hwords.sendRequest _
    statusOk := statusOk_of_cleared hd he hc
    actOk := .inl hl
    requestIffWait := by simp
    busyOk := fun _ => ⟨hl.1, hlt.le, hrange⟩
    waitOk := fun _ => ⟨hsel, hlt, selectRound_i_toNat hlt, rfl, zextTo_toNat_of_lt ((hrange.workBelow hl).arg_lt _)⟩ }

theorem State.Inv.engineStep : (engineStep s).Inv := by
  cases hp : s.eng.phase with
  | idle => rwa [engineStep_of_idle hp]
  | wait => rwa [engineStep_of_wait hp]
  | run =>
    by_cases hj : s.eng.j = s.act.rounds
    · rw [engineStep_finish hp hj]
      exact hinv.finish hp
    · rw [engineStep_start hp hj]
      cases hsel : s.act.rfsel with
      | true =>
        rw [startRound_of_builtin hsel]
        exact hinv.builtinRound hp hj _
      | false =>
        rw [startRound_of_external hsel]
        exact hinv.sendRequest hp hj hsel

theorem State.Inv.takeResponse (data : Word) : (takeResponse data s).Inv := by
  by_cases hwait : s.eng.phase = .wait
  · have hbusy : s.eng.phase ≠ .idle := by simp [hwait]
    obtain ⟨-, hlt, hi, -, -⟩ := hinv.waitOk hwait
    obtain ⟨hwords, -, hle, hrange⟩ := hinv.endRound_ok hbusy hlt hi (sintW s.width data)
    obtain ⟨hd, he, hc⟩ := hinv.statusOk.cleared_of_busy hbusy
    rw [takeResponse_of_wait data hwait]
    exact inv_of_run rfl rfl hwords (statusOk_of_cleared hd he hc) (hinv.act_legal hbusy) hle hrange
  · rwa [takeResponse_ignored data hwait]

end engine

/-- Settles O37: the events one by one; only the engine's step and a response reach the engine, only a command the outcome
and the descriptor. -/
theorem invariantKeptByStep : Obligations.InvariantKeptByStep := by
  unfold Obligations.InvariantKeptByStep
  intro s t hinv h
  obtain ⟨-, rfl⟩ | ⟨tx, later, -, hexec⟩ | ⟨later, -, rfl⟩ | ⟨data, later, -, rfl⟩ | ⟨level, later, -, rfl⟩ |
    ⟨later, -, rfl⟩ := step_cases h
  · exact hinv.engineStep
  · exact (hinv.withAgenda later).exec hexec
  · exact (hinv.withAgenda later).engineStep
  · exact (hinv.withAgenda later).takeResponse data
  · exact hinv.of_engineKept ⟨rfl, rfl, rfl, rfl, rfl, rfl, rfl⟩ hinv.wordsFit
  · have hreset := inv_resetWith s.width s.rfPresent
    refine hreset.of_engineKept ⟨rfl, rfl, rfl, rfl, rfl, rfl, rfl⟩ (hreset.wordsFit.withReadData ?_)
    obtain ⟨-, -, -, -, -, -, -, -, hread⟩ := hinv.wordsFit
    exact hread

end Sys2Proof.Machine
end

section
/-! PROOFS. The rounds as mathematics: the fields of a bit-domain round, the pair of an FE2 round, and what a whole APPLY
computes (43_bit_domain.md R180 to R192; 44_numeric.md R219 to R224). -/

namespace Sys2Proof.Machine

/-! ## Bit-domain rounds on their fields -/

theorem lowbits_eq_emod (F : Int) (p : Nat) : lowbits F p = (F % 2 ^ p).toNat := by
  rw [lowbits]
  norm_cast

theorem widths_fst (s t i : Nat) : (widths s t i).1 = if i % 2 = 0 then s else t := by
  unfold widths
  split <;> rfl

theorem widths_snd (s t i : Nat) : (widths s t i).2 = if i % 2 = 0 then t else s := by
  unfold widths
  split <;> rfl

section fields
variable {p n q A N B : Nat} (F : Int)

theorem forward_moves_fields (hA : A < 2 ^ p) (hN : N < 2 ^ n) (hB : B < 2 ^ q) :
    bitArgForward q (A * 2 ^ (n + q) + N * 2 ^ q + B) = B ∧
      bitUpdForward p n q (A * 2 ^ (n + q) + N * 2 ^ q + B) F =
        B * 2 ^ (n + p) + N * 2 ^ p + (A ^^^ (F % 2 ^ p).toNat) := by
  rw [← lowbits_eq_emod]
  exact ⟨ofFields_and_mask hB, bitUpdForward_ofFields F hA hN hB⟩

theorem reverse_moves_fields {C : Nat} (hB : B < 2 ^ q) (hN : N < 2 ^ n) (hC : C < 2 ^ p) :
    bitArgReverse p n (B * 2 ^ (n + p) + N * 2 ^ p + C) = B ∧
      bitUpdReverse p n q (B * 2 ^ (n + p) + N * 2 ^ p + C) F =
        (C ^^^ (F % 2 ^ p).toNat) * 2 ^ (n + q) + N * 2 ^ q + B := by
  rw [← lowbits_eq_emod]
  exact ⟨ofFields_shiftRight_add hN hC, bitUpdReverse_ofFields F hB hN hC⟩

end fields

/-- Settles O42: the machine's round has the widths of its index. -/
theorem forwardBitRoundMovesFields : Obligations.ForwardBitRoundMovesFields := by
  unfold Obligations.ForwardBitRoundMovesFields
  refine ⟨fun p n q A N B F => forward_moves_fields F, ?_⟩
  intro d st i A N B F hk hd p q n hA hN hB hws
  have hp : (d.widths i).1 = p := widths_fst _ _ i
  have hq : (d.widths i).2 = q := widths_snd _ _ i
  have hn : d.null = n := rfl
  rw [arg_bitForward hk hd, upd_bitForward hk hd, hp, hq, hn, hws]
  exact forward_moves_fields F hA hN hB

/-- Settles O43: the machine's round has the widths of its index. -/
theorem reverseBitRoundMovesFields : Obligations.ReverseBitRoundMovesFields := by
  unfold Obligations.ReverseBitRoundMovesFields
  refine ⟨fun p n q B N C F => reverse_moves_fields F, ?_⟩
  intro d st i B N C F hk hd p q n hB hN hC hws
  have hp : (d.widths i).1 = p := widths_fst _ _ i
  have hq : (d.widths i).2 = q := widths_snd _ _ i
  have hn : d.null = n := rfl
  rw [arg_bitReverse hk hd, upd_bitReverse hk hd, hp, hq, hn, hws]
  exact reverse_moves_fields F hB hN hC

/-- The segments of a split within `T` make up `T`. -/
theorem widths_add_nullBits {s t T : Nat} (h : s + t ≤ T) (i : Nat) :
    (widths s t i).1 + nullBits T s t + (widths s t i).2 = T := by
  rw [widths_fst, widths_snd, nullBits]
  split <;> omega

/-- Settles O45: each direction sends what the other sends, so the pure round function answers both alike. -/
theorem bitRoundsUndoEachOther : Obligations.BitRoundsUndoEachOther := by
  unfold Obligations.BitRoundsUndoEachOther
  intro RF s t T i ws hst hws p q n
  rw [← widths_add_nullBits hst i] at hws
  constructor
  · have harg := bitArgReverse_bitUpdForward (RF i (bitArgForward q ws)) hws
    exact ⟨harg, by rw [harg, bitUpdReverse_bitUpdForward _ hws]⟩
  · have harg := bitArgForward_bitUpdReverse (RF i (bitArgReverse p n ws)) hws
    exact ⟨harg, by rw [harg, bitUpdForward_bitUpdReverse _ hws]⟩

theorem bitArgForward_lt (q ws : Nat) : bitArgForward q ws < 2 ^ q :=
  Nat.and_lt_two_pow _ (Nat.sub_lt (by positivity) one_pos)

theorem bitArgReverse_lt {p n q ws : Nat} (h : ws < 2 ^ (p + n + q)) : bitArgReverse p n ws < 2 ^ q := by
  rw [bitArgReverse, Nat.shiftRight_eq_div_pow]
  exact Nat.div_lt_of_lt_mul (by rwa [← pow_add, show n + p + q = p + n + q by omega])

/-- Settles O46: the response enters a round through its low bits only. -/
theorem onlyLowResponseBitsCount : Obligations.OnlyLowResponseBitsCount := by
  unfold Obligations.OnlyLowResponseBitsCount
  intro p n q ws F G hFG hws
  have hlow : lowbits F p = lowbits G p := by rw [lowbits_eq_emod, lowbits_eq_emod, hFG]
  refine ⟨?_, ?_, bitArgForward_lt q ws, bitArgReverse_lt hws⟩
  · rw [bitUpdForward_eq_or, bitUpdForward_eq_or, hlow]
  · rw [bitUpdReverse_eq_or, bitUpdReverse_eq_or, hlow]

/-! ## FE2 rounds on their pair (44_numeric.md R219 to R222) -/

theorem fe2Modulus_pos {a b : Nat} (ha : 0 < a) (hb : 0 < b) (i : Nat) : 0 < fe2Modulus a b i := by
  unfold fe2Modulus
  split
  · exact ha
  · exact hb

theorem modulus_cast (d : Descriptor) (i : Nat) :
    (d.modulus i : Int) = if i % 2 = 0 then (d.radixA.toNat : Int) else d.radixB.toNat := by
  unfold Descriptor.modulus fe2Modulus
  split <;> rfl

/-- Settles O48: the component that takes the response is reduced by the round's modulus, and the other one moves over. -/
theorem fe2RoundsUndoEachOther : Obligations.Fe2RoundsUndoEachOther := by
  unfold Obligations.Fe2RoundsUndoEachOther
  constructor
  · intro a b i L R F ha hb
    have hm := fe2Modulus_pos ha hb i
    constructor
    · intro hL hR
      exact ⟨hR, floorMod_lt _ hm, Prod.ext (floorMod_add_sub F hL) rfl⟩
    · intro hL hR
      exact ⟨floorMod_lt _ hm, hL, Prod.ext rfl (floorMod_sub_add F hR)⟩
  · intro d st i F hk ha hb m
    have hm := fe2Modulus_pos ha hb i
    have hcast : (d.modulus i : Int) = m := modulus_cast d i
    constructor
    · intro hd
      rw [arg_fe2Forward hk hd, upd_fe2Forward hk hd, ← hcast]
      exact ⟨rfl, rfl, floorMod_cast _ hm⟩
    · intro hd
      rw [arg_fe2Reverse hk hd, upd_fe2Reverse hk hd, ← hcast]
      exact ⟨rfl, floorMod_cast _ hm, rfl⟩

/-! ## BALANCED as a special case of UNBALANCED (41_range_check_configure.md R120; 43_bit_domain.md R182) -/

/-- The round loop depends on the descriptor through `idx`, `arg` and `upd` only. -/
theorem roundLoop_congr {d e : Descriptor} (hidx : d.idx = e.idx) (harg : d.arg = e.arg) (hupd : d.upd = e.upd)
    (RF : Nat → Nat → Int) (st : Work) (k : Nat) : d.roundLoop RF st k = e.roundLoop RF st k := by
  induction k with
  | zero => rfl
  | succ k ih => rw [roundLoop_succ, roundLoop_succ, ih, hidx, harg, hupd]

/-- The unbalanced descriptor with the same fields. -/
def Descriptor.asUnbalanced (d : Descriptor) : Descriptor := { d with kind := .unbalanced }

section asUnbalanced
variable {d : Descriptor} (hk : d.kind = .balanced)
include hk

theorem asUnbalanced_arg : d.arg = d.asUnbalanced.arg := by
  funext i st
  cases hd : d.dir with
  | false => rw [arg_bitForward (.inl hk) hd, arg_bitForward (d := d.asUnbalanced) (.inr rfl) hd]; rfl
  | true => rw [arg_bitReverse (.inl hk) hd, arg_bitReverse (d := d.asUnbalanced) (.inr rfl) hd]; rfl

theorem asUnbalanced_upd : d.upd = d.asUnbalanced.upd := by
  funext i st F
  cases hd : d.dir with
  | false => rw [upd_bitForward (.inl hk) hd, upd_bitForward (d := d.asUnbalanced) (.inr rfl) hd]; rfl
  | true => rw [upd_bitReverse (.inl hk) hd, upd_bitReverse (d := d.asUnbalanced) (.inr rfl) hd]; rfl

theorem asUnbalanced_applyFn (RF : Nat → Nat → Int) (x : Nat) : d.applyFn RF x = d.asUnbalanced.applyFn RF x := by
  have hne : d.kind ≠ .fe2 := by simp [hk]
  have hne' : d.asUnbalanced.kind ≠ .fe2 := by simp [Descriptor.asUnbalanced]
  have hloop := roundLoop_congr (d := d) (e := d.asUnbalanced) rfl (asUnbalanced_arg hk) (asUnbalanced_upd hk) RF
  rw [Descriptor.applyFn, Descriptor.applyFn, fin_of_ne_fe2 hne, fin_of_ne_fe2 hne', init_of_ne_fe2 hne,
    init_of_ne_fe2 hne', hloop]
  rfl

theorem asUnbalanced_legal {w : Width} (hl : d.Legal w) : d.asUnbalanced.Legal w := by
  obtain ⟨hvalid, hrounds, hT, -, hS, hTG, hA, hB⟩ := (legal_balanced_iff hk).1 hl
  rw [legal_unbalanced_iff rfl]
  refine ⟨hvalid, hrounds, hT, ?_, hA, hB⟩
  simp only [Descriptor.asUnbalanced]
  omega

end asUnbalanced

/-- Settles O49: the two kinds have the same round functions, and two halves are a split. -/
theorem balancedIsEqualSplit : Obligations.BalancedIsEqualSplit := by
  unfold Obligations.BalancedIsEqualSplit
  intro w d RF x hl hk
  exact ⟨asUnbalanced_applyFn hk RF x, asUnbalanced_legal hk hl⟩

/-! ## FE1 and FE2 (44_numeric.md R224) -/

theorem applyFn_of_one_round {d : Descriptor} (hd : d.dir = false) (h : d.rounds = 1#32) (RF : Nat → Nat → Int)
    (x : Nat) :
    d.applyFn RF x =
      let st := d.init { ws := 0, l := 0, r := 0 } x
      d.fin (d.upd 0 st (RF 0 (d.arg 0 st))) := by
  rw [Descriptor.applyFn, h, show (1#32).toNat = 0 + 1 from rfl, roundLoop_succ, idx_forward hd]
  rfl

/-- The FE2 descriptor with the same fields. -/
def Descriptor.asFe2 (d : Descriptor) : Descriptor := { d with kind := .fe2 }

/-- One forward round of FE1, and of FE2 with the same radices, gives `a * r + w` (44_numeric.md R212, R220). -/
theorem asFe2_applyFn_of_one_round {d : Descriptor} (hk : d.kind = .fe1) (hd : d.dir = false) (h : d.rounds = 1#32)
    (RF : Nat → Nat → Int) (x : Nat) : d.applyFn RF x = d.asFe2.applyFn RF x := by
  have hne : d.kind ≠ .fe2 := by simp [hk]
  have hfinal : d.asFe2.finalModulus = d.radixA.toNat := by
    rw [finalModulus_eq_ite]
    simp [Descriptor.asFe2, h]
  rw [applyFn_of_one_round hd h, applyFn_of_one_round (d := d.asFe2) hd h, init_of_ne_fe2 hne, fin_of_ne_fe2 hne,
    upd_fe1Forward hk hd, arg_fe1Forward hk hd, init_fe2Forward (d := d.asFe2) rfl hd,
    fin_fe2Forward (d := d.asFe2) rfl hd, upd_fe2Forward (d := d.asFe2) rfl hd, arg_fe2Forward (d := d.asFe2) rfl hd,
    hfinal]
  rfl

/-- The descriptor of R224's example: FE1 with two rounds, a = 3 and b = 5. -/
def fe1TwoRounds : Descriptor where
  valid := true
  kind := .fe1
  rfsel := false
  rounds := 2#32
  totalBits := 0#32
  sourceBits := 0#32
  targetBits := 0#32
  radixA := 3#64
  radixB := 5#64
  dir := false

theorem fe1TwoRounds_legal : fe1TwoRounds.Legal .w64 :=
  (legal_radix_iff (.inl rfl)).2 (by decide)

/-- Settles O50: one round of either kind is the same sum; the two rounds of R224's example are evaluated. -/
theorem fe1AndFe2AgreeOnOneRound : Obligations.Fe1AndFe2AgreeOnOneRound := by
  unfold Obligations.Fe1AndFe2AgreeOnOneRound
  constructor
  · intro w d RF x _ hk hd hrounds _
    exact asFe2_applyFn_of_one_round hk hd hrounds RF x
  · exact ⟨fe1TwoRounds, fun _ v => v * 11, fe1TwoRounds_legal, rfl, rfl, rfl, rfl, rfl, fun _ _ => rfl, by decide,
      by decide, by decide⟩

/-! ## Both segments empty (43_bit_domain.md R190) -/

theorem lowbits_zero (F : Int) : lowbits F 0 = 0 := Nat.lt_one_iff.1 (lowbits_lt F 0)

theorem ofFields_null (n N : Nat) : ofFields n 0 0 N 0 = N := by simp [ofFields]

/-- Without segments a round moves the null segment onto itself. -/
theorem bitUpdForward_empty {n ws : Nat} (F : Int) (h : ws < 2 ^ n) : bitUpdForward 0 n 0 ws F = ws := by
  have hmove := bitUpdForward_ofFields (p := 0) (q := 0) (A := 0) (B := 0) F one_pos h one_pos
  rwa [lowbits_zero, Nat.xor_self, ofFields_null] at hmove

theorem bitUpdReverse_empty {n ws : Nat} (F : Int) (h : ws < 2 ^ n) : bitUpdReverse 0 n 0 ws F = ws := by
  have hmove := bitUpdReverse_ofFields (p := 0) (q := 0) (B := 0) (C := 0) F one_pos h one_pos
  rwa [lowbits_zero, Nat.xor_self, ofFields_null] at hmove

section emptySplit
variable {d : Descriptor} (hs : d.sourceBits = 0#32) (ht : d.targetBits = 0#32) (hk : d.kind = .unbalanced)
include hs ht

theorem emptySplit_widths (i : Nat) : d.widths i = (0, 0) ∧ d.null = d.totalBits.toNat := by
  simp [Descriptor.widths, Machine.widths, Descriptor.null, nullBits, hs, ht]

include hk

theorem emptySplit_upd {st : Work} (h : st.ws < 2 ^ d.totalBits.toNat) (i : Nat) (F : Int) : d.upd i st F = st := by
  obtain ⟨hw, hn⟩ := emptySplit_widths hs ht i
  cases hd : d.dir with
  | false => rw [upd_bitForward (.inr hk) hd, hw, hn, bitUpdForward_empty F h]
  | true => rw [upd_bitReverse (.inr hk) hd, hw, hn, bitUpdReverse_empty F h]

theorem emptySplit_arg {st : Work} (h : st.ws < 2 ^ d.totalBits.toNat) (i : Nat) : d.arg i st = 0 := by
  obtain ⟨hw, hn⟩ := emptySplit_widths hs ht i
  cases hd : d.dir with
  | false =>
    rw [arg_bitForward (.inr hk) hd, hw]
    exact Nat.lt_one_iff.1 (bitArgForward_lt 0 _)
  | true =>
    rw [arg_bitReverse (.inr hk) hd, hw, hn]
    exact Nat.lt_one_iff.1 (bitArgReverse_lt (q := 0) (by rwa [Nat.zero_add, Nat.add_zero]))

theorem emptySplit_roundLoop (RF : Nat → Nat → Int) {st : Work} (h : st.ws < 2 ^ d.totalBits.toNat) (k : Nat) :
    d.roundLoop RF st k = st := by
  induction k with
  | zero => rfl
  | succ k ih => rw [roundLoop_succ, ih, emptySplit_upd hs ht hk h]

end emptySplit

/-- Settles O52: no round moves anything, and each sends a value of no bits. -/
theorem emptySplitIsIdentity : Obligations.EmptySplitIsIdentity := by
  unfold Obligations.EmptySplitIsIdentity
  intro w d RF x _ hk hs ht hx
  have hne : d.kind ≠ .fe2 := by simp [hk]
  rw [inRange_iff_of_bitDomain (.inr hk)] at hx
  refine ⟨?_, emptySplit_arg hs ht hk hx⟩
  rw [Descriptor.applyFn, init_of_ne_fe2 hne, fin_of_ne_fe2 hne, emptySplit_roundLoop hs ht hk RF hx]

/-! ## A whole APPLY -/

/-- Settles O53: the round loop keeps the range, and `fin` leaves it in the domain. -/
theorem applyStaysInDomain : Obligations.ApplyStaysInDomain := by
  unfold Obligations.ApplyStaysInDomain
  intro w d RF x hl hx
  exact applyFn_inRange RF hl hx

/-- Settles O55: the inverse of P2 undoes P2 on the intermediate value, then the inverse of P1 undoes P1. -/
theorem compositionInvertsInOppositeOrder : Obligations.CompositionInvertsInOppositeOrder := by
  unfold Obligations.CompositionInvertsInOppositeOrder
  intro w P1 P2 RF1 RF2 x hl1 hl2 hx1 hx2
  rw [inverse_applyFn_applyFn RF2 hl2 hx2, inverse_applyFn_applyFn RF1 hl1 hx1]

end Sys2Proof.Machine
end

section
/-! PROOFS. How long an APPLY takes when nothing else happens: two steps for each round with an external round function that
answers at once, one with the built-in one, and one more to complete (42_round_function_apply.md R162 to R168;
70_reset_and_hazards.md R310). -/

namespace Sys2Proof.Machine

/-! ## The two events of such a run -/

theorem runEvents_engine (s : State) : runEvents [.engine] s = engineStep { s with agenda := [] } := rfl

theorem runEvents_response (data : Word) (s : State) :
    runEvents [.response data] s = takeResponse data { s with agenda := [] } := rfl

theorem answeredRun_succ (RF : Nat → Nat → Int) (n : Nat) (s : State) :
    answeredRun RF (n + 1) s = answeredRun RF n (runEvents [answerWith RF s] s) := by
  simp only [answeredRun, step_runEvents]

theorem answerWith_of_valid (RF : Nat → Nat → Int) {s : State} (h : s.eng.reqValid = true) :
    answerWith RF s =
      .response (BitVec.ofInt 64 (RF s.rfRequest.round.toNat s.rfRequest.value.toNat)) := if_pos h

theorem answerWith_of_not_valid (RF : Nat → Nat → Int) {s : State} (h : s.eng.reqValid = false) :
    answerWith RF s = .engine := if_neg (Bool.eq_false_iff.1 h)

/-- Neither event touches X. -/
theorem answeredRun_x (RF : Nat → Nat → Int) (n : Nat) (s : State) : (answeredRun RF n s).x = s.x := by
  induction n generalizing s with
  | zero => rfl
  | succ n ih =>
    rw [answeredRun_succ, ih]
    cases hv : s.eng.reqValid with
    | true =>
      rw [answerWith_of_valid RF hv, runEvents_response]
      exact (congrArg State.x (takeResponse_frame _ _)).trans rfl
    | false =>
      rw [answerWith_of_not_valid RF hv, runEvents_engine]
      exact (congrArg State.x (engineStep_withEngineOf _)).trans rfl

/-! ## One step of an APPLY in progress -/

section progress
variable {w : Width} {d : Descriptor} {RF : Nat → Nat → Int} {st : Work} {j : Nat} {s t : State}

/-- An event that leaves the engine executing leaves the progress of as many rounds as ENG.J counts. -/
theorem Advances.progress (h : Advances w d RF st j s t) (hbusy : t.eng.phase ≠ .idle) :
    Progress w d RF st t.eng.j.toNat t := by
  obtain ⟨j', hp, -⟩ | ⟨hdone, -⟩ := h
  · rw [hp.roundsDone]
    exact hp
  · exact absurd hdone.idle hbusy

theorem Progress.withAgenda (hp : Progress w d RF st j s) (later : List Event) :
    Progress w d RF st j { s with agenda := later } := hp.of_engineKept (engineKept_agenda s later)

theorem Progress.eng_j_ne_rounds (hp : Progress w d RF st j s) (hj : j < d.rounds.toNat) : s.eng.j ≠ s.act.rounds := by
  intro h
  have hjk : j = d.rounds.toNat := by rw [← hp.roundsDone, h, hp.act]
  omega

theorem Progress.eng_j_lt_rounds (hp : Progress w d RF st j s) (hj : j < d.rounds.toNat) :
    s.eng.j.toNat < s.act.rounds.toNat := by rwa [hp.roundsDone, hp.act]

section legal
variable (hl : d.Legal w) (h0 : d.InRounds 0 st)
include hl h0

/-- The engine's step in RUN sends the request of the next round. -/
theorem Progress.runEvents_request (hp : Progress w d RF st j s) (hrun : s.eng.phase = .run) (hj : j < d.rounds.toNat)
    (hsel : d.rfsel = false) :
    Progress w d RF st j (runEvents [.engine] s) ∧ (runEvents [.engine] s).eng.phase = .wait := by
  have hadv := (hp.withAgenda []).advances_of_external hl h0 hrun hj hsel
  rw [runEvents_engine, engineStep_start (s := { s with agenda := [] }) hrun (hp.eng_j_ne_rounds hj)]
  rw [startRound_of_external (s := { s with agenda := [] }) (hp.act ▸ hsel)] at hadv ⊢
  have hp' := hadv.progress (by simp)
  exact ⟨hp.roundsDone ▸ hp', rfl⟩

/-- A response in WAIT ends the round. -/
theorem Progress.runEvents_answer (hp : Progress w d RF st j s) (hwait : s.eng.phase = .wait) {data : Word}
    (hdata : sintW s.width data = RF s.rfRequest.round.toNat s.rfRequest.value.toNat) :
    Progress w d RF st (j + 1) (runEvents [.response data] s) ∧ (runEvents [.response data] s).eng.phase = .run := by
  obtain ⟨-, hj, -⟩ := hp.waitOk hwait
  have hadv := (hp.withAgenda []).advances_of_response hl h0 hwait hdata
  rw [runEvents_response]
  rw [takeResponse_of_wait (s := { s with agenda := [] }) data hwait] at hadv ⊢
  have hp' := hadv.progress (by simp)
  rw [endRound_j_toNat (s := { s with agenda := [] }) hj, hp.roundsDone] at hp'
  exact ⟨hp', rfl⟩

/-- The engine's step in RUN does a whole round with the built-in round function. -/
theorem Progress.runEvents_builtin (hp : Progress w d RF st j s) (hrun : s.eng.phase = .run) (hj : j < d.rounds.toNat)
    (hsel : d.rfsel = true) (hRF : ∀ i v, RF i v = sintW w (BitVec.ofNat 64 v)) :
    Progress w d RF st (j + 1) (runEvents [.engine] s) ∧ (runEvents [.engine] s).eng.phase = .run := by
  have hadv := (hp.withAgenda []).advances_of_builtin hl h0 hrun hj hsel hRF
  rw [runEvents_engine, engineStep_start (s := { s with agenda := [] }) hrun (hp.eng_j_ne_rounds hj)]
  rw [startRound_of_builtin (s := { s with agenda := [] }) (hp.act ▸ hsel)] at hadv ⊢
  have hp' := hadv.progress hp.busy
  rw [endRound_j_toNat (s := State.selectRound { s with agenda := [] }) (hp.eng_j_lt_rounds hj)] at hp'
  exact ⟨hp.roundsDone ▸ hp', hrun⟩

/-- With every round done the engine's step completes the APPLY. -/
theorem Progress.runEvents_finish (hp : Progress w d RF st d.rounds.toNat s) (hrun : s.eng.phase = .run) :
    Completed d RF st (runEvents [.engine] s) := by
  have hj : s.eng.j = s.act.rounds := BitVec.eq_of_toNat_eq (by rw [hp.roundsDone, hp.act])
  rw [runEvents_engine, engineStep_finish (s := { s with agenda := [] }) hrun hj]
  exact (hp.withAgenda []).completed_of_finish hl h0 rfl

/-! ## A run to the end -/

/-- A round whose request is answered at once takes two steps. -/
theorem Progress.answeredRun_round (hp : Progress w d RF st j s) (hrun : s.eng.phase = .run) (hj : j < d.rounds.toNat)
    (hsel : d.rfsel = false) (hRF : RespondsIn w RF) (n : Nat) :
    ∃ t, answeredRun RF (n + 2) s = answeredRun RF n t ∧ Progress w d RF st (j + 1) t ∧ t.eng.phase = .run := by
  obtain ⟨hp', hwait⟩ := hp.runEvents_request hl h0 hrun hj hsel
  set s' := runEvents [.engine] s with hs'
  have hresponse : sintW s'.width (BitVec.ofInt 64 (RF s'.rfRequest.round.toNat s'.rfRequest.value.toNat)) =
      RF s'.rfRequest.round.toNat s'.rfRequest.value.toNat := by
    obtain ⟨hlow, hhigh⟩ := hRF s'.rfRequest.round.toNat s'.rfRequest.value.toNat
    rw [hp'.width]
    exact sintW_ofInt hlow hhigh
  refine ⟨_, ?_, hp'.runEvents_answer hl h0 hwait hresponse⟩
  rw [answeredRun_succ, answerWith_of_not_valid RF (hp.reqValid_of_run hrun), answeredRun_succ, ← hs',
    answerWith_of_valid RF (hp'.requestIffWait.2 hwait)]

/-- The rounds left take two steps each, and completion takes one. -/
theorem Progress.answeredRun_completes (hsel : d.rfsel = false) (hRF : RespondsIn w RF) (m : Nat)
    (hp : Progress w d RF st j s) (hrun : s.eng.phase = .run) (hm : j + m = d.rounds.toNat) :
    Completed d RF st (answeredRun RF (2 * m + 1) s) := by
  induction m generalizing j s with
  | zero =>
    obtain rfl : j = d.rounds.toNat := hm
    have hfinish := hp.runEvents_finish hl h0 hrun
    rwa [answeredRun_succ, answerWith_of_not_valid RF (hp.reqValid_of_run hrun)]
  | succ m ih =>
    obtain ⟨t, hsteps, hp', hrun'⟩ := hp.answeredRun_round hl h0 hrun (by omega) hsel hRF (2 * m + 1)
    rw [show 2 * (m + 1) + 1 = 2 * m + 1 + 2 by ring, hsteps]
    exact ih hp' hrun' (by omega)

/-- With the built-in round function the rounds left take one step of the engine each, and completion takes one. -/
theorem Progress.engineRun_completes (hsel : d.rfsel = true) (hRF : ∀ i v, RF i v = sintW w (BitVec.ofNat 64 v))
    (m : Nat) (hp : Progress w d RF st j s) (hrun : s.eng.phase = .run) (hm : j + m = d.rounds.toNat) :
    Completed d RF st (runEvents (List.replicate (m + 1) .engine) s) := by
  induction m generalizing j s with
  | zero =>
    obtain rfl : j = d.rounds.toNat := hm
    exact hp.runEvents_finish hl h0 hrun
  | succ m ih =>
    obtain ⟨hp', hrun'⟩ := hp.runEvents_builtin hl h0 hrun (by omega) hsel hRF
    rw [List.replicate_succ, runEvents_cons]
    exact ih hp' hrun' (by omega)

end legal

end progress

/-- Settles O58: the accepting step starts the progress with every round left. -/
theorem answeredApplyCompletes : Obligations.AnsweredApplyCompletes := by
  unfold Obligations.AnsweredApplyCompletes
  intro s t u RF hinv hidle hvalid hsel hx hRF happly f
  obtain ⟨hp, hrun⟩ := apply_progress RF { ws := 0, l := 0, r := 0 } hinv hidle hvalid hx happly
  have hdone := hp.answeredRun_completes (hinv.legal_of_valid hvalid) (init_inRounds _ hx) hsel hRF
    s.act.rounds.toNat hrun (Nat.zero_add _)
  have htx : t.x = s.x := by
    rw [exec_apply_of_inRange u hidle hvalid hx, Host.Outcome.next.injEq] at happly
    rw [← happly]
    rfl
  exact ⟨hdone.y, hdone.idle, hdone.done, hdone.err, hdone.act, (answeredRun_x RF _ t).trans htx⟩

/-- Settles O59: the accepting step starts the progress with every round left. -/
theorem builtinApplyCompletes : Obligations.BuiltinApplyCompletes := by
  unfold Obligations.BuiltinApplyCompletes
  intro s t u hinv hidle hvalid hsel hx happly f
  obtain ⟨hp, hrun⟩ := apply_progress (fun _ v => sintW s.width (BitVec.ofNat 64 v)) { ws := 0, l := 0, r := 0 } hinv
    hidle hvalid hx happly
  have hdone := hp.engineRun_completes (hinv.legal_of_valid hvalid) (init_inRounds _ hx) hsel (fun _ _ => rfl)
    s.act.rounds.toNat hrun (Nat.zero_add _)
  exact ⟨hdone.y, hdone.idle, hdone.done, hdone.err⟩

end Sys2Proof.Machine
end
